-- ==== Sys2Proof/Word.lean ====
section
/-! DEFINITION. The word types of the engine: the stated widths of 00_scope.md R4 and R7, nothing else.
Every value is unsigned, and addition and multiplication of `BitVec w` wrap modulo 2^w, as R8 asks. -/

namespace Sys2Proof

/-- `u32`: one round key, or one half of the Feistel block (R4 `KEY_W`, `HALF_W`; R7). -/
abbrev U32 := BitVec 32

/-- `u64`: the counter, the block, a seed, an output (R4 `CTR_W`, `BLOCK_W`, `SEED_W`, `OUT_W`; R7). -/
abbrev U64 := BitVec 64

/-- The state image, `IMAGE_W` = 832 bits (R4, R78). -/
abbrev Image := BitVec 832

/-- One byte of the serialised image (R32). -/
abbrev Byte := BitVec 8

/-- The 3-bit opcode of a command (R49). -/
abbrev Opcode := BitVec 3

/-- The key register file `keys[0..23]` (R14): a fixed length, known when the machine is built. -/
abbrev Keys := Vector U32 24

end Sys2Proof
end

