-- ==== Sys2Proof/Machine/Bits.lean ====
section
/-! DEFINITION. Bit and list helpers of the engine: rotate-left (00_scope.md R10), little-endian numbers made of words
(R6, `{a, b} = a * 2^n + b`), and a key file from a function of the index. -/

namespace Sys2Proof.Machine

/-- `rotl_w(x, n)` (R10), for `0 <= n < w`: left is toward the more significant bits (PRESUMED by the spec's G1, log 10).
Rotating by 0 is the identity, a case of its own. -/
def rotl {w : Nat} (x : BitVec w) (n : Nat) : BitVec w :=
  if n = 0 then x else (x <<< n) ||| (x >>> (w - n))

/-- The number whose base-2^w digits, least significant first, are the given words: `{..., l[1], l[0]}` of R6. -/
def concatWords {w : Nat} : List (BitVec w) → Nat
  | [] => 0
  | k :: ks => k.toNat + 2 ^ w * concatWords ks

/-- The key file whose entry `i` is `f i`, for i = 0..23 (R14). -/
def keysOf (f : Nat → U32) : Keys := ⟨⟨(List.range 24).map f⟩, by simp⟩

end Sys2Proof.Machine
end

