-- ==== Sys2Proof/Machine/Params.lean ====
section
/-! DEFINITION. The fixed parameters of 00_scope.md R4: fixed logic, not state (10_state.md R27).
The literals are the source's, unaudited and normative as written (92_eei_decisions.md D22; log 11). -/

namespace Sys2Proof.Machine

/-- `NUM_ROUNDS` -/
def numRounds : Nat := 24

/-- `LCG_MUL` (`C1`) = 0x5851F42D4C957F2D -/
def lcgMul : U64 := 6364136223846793005#64

/-- `LCG_INC` (`C2`) = 0x14057B7EF767814F -/
def lcgInc : U64 := 1442695040888963407#64

/-- `KEY_MUL` = 0x0005532A99CD512D -/
def keyMul : U64 := 1498817317654829#64

/-- `KEY_ROT`, the 64-bit rotate amount in key derivation -/
def keyRot : Nat := 9

/-- `KEY_FOLD`, the shift of the fold -/
def keyFold : Nat := 32

/-- `ROT_MASK`, the mask that gives the round's rotate amount -/
def rotMask : U32 := 31#32

/-- `DEFAULT_SEED`, the host's auto-seed value (R57, R58) -/
def defaultSeed : U64 := 1#64

end Sys2Proof.Machine
end

