-- ==== Sys2Proof/Machine/Feistel.lean ====
section
/-! DEFINITION. The units `feistel_round_pipeline` and `counter_increment_saturate` (41_feistel_generation.md R67 to R74). -/

namespace Sys2Proof.Machine

/-- `round32(x, k)` (R67): `(k + x + rotl_32(x, x & ROT_MASK)) mod 2^32`; the rotate amount is `x[4:0]` (R68). -/
def round32 (x k : U32) : U32 := k + x + rotl x (x &&& rotMask).toNat

/-- The two halves of the Feistel block (00_scope.md, Block). -/
structure Halves where
  left : U32
  right : U32
  deriving DecidableEq, Repr

/-- `right = c[31:0]`, `left = c[63:32]` (R71). -/
def splitBlock (c : U64) : Halves := { left := c.extractLsb' 32 32, right := c.extractLsb' 0 32 }

/-- `{left, right}` (R71). -/
def joinHalves (h : Halves) : U64 := h.left ++ h.right

/-- One round of R71; both assignments read the values from before the round. Every round has this form, the last one
too (R72). -/
def roundStep (h : Halves) (k : U32) : Halves :=
  { left := h.right, right := h.left ^^^ round32 h.right k }

/-- `feistel(K, c)` (R71): the 24 rounds in increasing order of the key's index. -/
def feistel (K : Keys) (c : U64) : U64 := joinHalves (K.toList.foldl roundStep (splitBlock c))

/-- One round of the inverse pass (R73). -/
def unroundStep (h : Halves) (k : U32) : Halves :=
  { left := h.right ^^^ round32 h.left k, right := h.left }

/-- `feistel_inv(K, o)` (R73): the rounds undone from key 23 down to key 0. No command uses it; it is a law for proofs. -/
def feistelInv (K : Keys) (o : U64) : U64 := joinHalves (K.toList.reverse.foldl unroundStep (splitBlock o))

/-- `ctr_inc(c)` (R74): it wraps and does not saturate (90_conflicts.md C1). -/
def ctrInc (c : U64) : U64 := c + 1#64

end Sys2Proof.Machine
end

