-- ==== Sys2Proof/Config.lean ====
section
/-! DEFINITION. What the engine's spec leaves free: the draws of 00_scope.md R12.
The fixed parameters of R4 are no configuration ("None of them is configurable"): they stand in Machine/Params.lean.
The open parameters of R5, R29 and R95 (latencies, pipeline depth, `PLATFORM_MAP`, `CONTEXT_MAP`) are read by no rule,
and a model that has no time does not take them. -/

namespace Sys2Proof

/-- `draw_32()` (R12): "a free N-bit value that no law constrains". The argument numbers the draw, so that two draws are
independent of each other. No body: nothing in Lean can tell its values. DESIGN CHOICE, log 1. -/
opaque Config.draw32 : Nat → U32

/-- `draw_64()` (R12), as `Config.draw32`. DESIGN CHOICE, log 1. -/
opaque Config.draw64 : Nat → U64

end Sys2Proof
end

