-- ==== Sys2Proof/Machine/Draws.lean ====
section
/-! DEFINITION. Groups of draws (00_scope.md R12). Each draw has an index of its own: log 1. -/

namespace Sys2Proof.Machine

/-- `for i in 0 .. 23: keys[i] <- draw_32()` (R75, R99), with the draws numbered `n` to `n + 23`. -/
def drawKeys (n : Nat) : Keys := keysOf (fun i => Config.draw32 (n + i))

/-- `counter <- draw_64()` (R75, R99), the draw after the 24 keys'. -/
def drawCounter (n : Nat) : U64 := Config.draw64 (n + 24)

/-- The index of the first draw after one key file and one counter have been drawn from `n` on. -/
def afterDraws (n : Nat) : Nat := n + 25

end Sys2Proof.Machine
end

