-- ==== Sys2Proof/Syntax.lean ====
section
/-! DEFINITION. Syntax: the engine's commands (30_encoding.md R50), the command as it stands on the command port (R49),
and the host's listing lines (R56 to R58). -/

namespace Sys2Proof

/-- The commands of command set 1, one constructor for each row of spec/opcode_table.json (R50), with the operand each one
reads. A bus a command does not read is ignored (R49), so it is no argument. -/
inductive Instr where
  /-- `NOP`, op 000 (R83). -/
  | nop
  /-- `SEED seed`, op 001 (R66): the seed is the whole `cmd_seed` bus (R51). -/
  | seed (v : U64)
  /-- `NEXT`, op 010 (R75). -/
  | next
  /-- `GET_STATE`, op 011 (R80). -/
  | getState
  /-- `SET_STATE image`, op 100 (R81): the image is the whole `cmd_image` bus (R52). -/
  | setState (img : Image)
  /-- `RESERVED_5`, op 101 (R84). -/
  | reserved5
  /-- `RESERVED_6`, op 110 (R84). -/
  | reserved6
  /-- `RESERVED_7`, op 111 (R84). -/
  | reserved7
  deriving DecidableEq, Repr

/-- One command in the format `CMD` (R49): the opcode with the two operand buses, as captured on acceptance (R47, R105). -/
structure Cmd where
  /-- `cmd_op[2:0]` -/
  op : Opcode
  /-- `cmd_seed[63:0]`, read by SEED only -/
  seed : U64
  /-- `cmd_image[831:0]`, read by SET_STATE only -/
  image : Image
  deriving DecidableEq, Repr

/-- A host-side name of a listing (R56 `name`), as its characters. -/
abbrev HostName := List Char

/-- The image operand of a listing's `SET_STATE` (R56 `image`). -/
inductive ImageArg where
  /-- an image bound earlier by `GET_STATE -> name` -/
  | bound (n : HostName)
  /-- `keys[0], ..., keys[23] ; counter`, as the numbers the listing writes -/
  | literal (keys : List Nat) (counter : Nat)
  deriving DecidableEq, Repr

/-- One line of a host listing without its comment (R56), with the pseudo-commands of R57 and R58. Numbers are as written:
`Line.wellFormed` says which are in range. -/
inductive Line where
  /-- a line with no command -/
  | blank
  /-- `NOP` -/
  | nop
  /-- `SEED u64` -/
  | seed (v : Nat)
  /-- `NEXT ["->" name]` -/
  | next (bind : Option HostName)
  /-- `GET_STATE ["->" name]` -/
  | getState (bind : Option HostName)
  /-- `SET_STATE image` -/
  | setState (img : ImageArg)
  /-- `SEED.DEFAULT` (R57) -/
  | seedDefault
  /-- `SEED.GLOBAL v` (R58) -/
  | seedGlobal (v : Nat)
  /-- `NEXT.GLOBAL ["->" name]` (R58) -/
  | nextGlobal (bind : Option HostName)
  deriving DecidableEq, Repr

end Sys2Proof
end

