-- ==== Sys2Proof/Machine/State.lean ====
section
/-! DEFINITION. The state of one engine instance: all of 10_state.md, and what the command and response ports hold between
steps (30_encoding.md R46, R47; 70_reset_and_hazards.md R99, R100). Plain data. -/

namespace Sys2Proof.Machine

/-- What a completion carries (R47, R50). `rsp_data` exists only in a NEXT completion and `rsp_image` only in a GET_STATE
completion; "a model represents these completions with no data" (log 6). -/
inductive Response where
  /-- completion only -/
  | none
  /-- `rsp_data`: the output of a NEXT -/
  | output (v : U64)
  /-- `rsp_image`: the state image of a GET_STATE -/
  | image (v : Image)
  deriving DecidableEq, Repr

/-- One completion (R47): `rsp_op` and what it carries. -/
structure Completion where
  op : Opcode
  response : Response
  deriving DecidableEq, Repr

/-- The state of one engine instance. -/
structure State where
  /-- the key register file `keys[0..23]` (R14) -/
  keys : Keys
  /-- the counter, the Feistel pass's plaintext (R17) -/
  counter : U64
  /-- the STATUS register (R19): bit 0 SEEDED, bit 1 UNSEEDED_USE, bit 2 BADCMD, bits 7:3 hardwired 0 (the read and
  write operations of Machine/Flags.lean see to that; log 9) -/
  status : BitVec 8
  /-- commands accepted and not yet completed, oldest first, with their captured operands (R47, R100, R105; log 3) -/
  accepted : List Cmd
  /-- completions presented and not yet taken by the host, oldest first (R40, R47; log 5) -/
  completions : List Completion
  /-- the reset request `rst` (R46, R99; log 4) -/
  rst : Bool
  /-- the model's own: the index of the next draw (R12; log 1) -/
  drawIx : Nat
  deriving DecidableEq, Repr

/-- Reasons a step could fault. There is none: "No command raises an exception, traps, stalls for good or aborts" (R85).
A type without constructors says so: no meaning can answer with a fault. Safe. -/
inductive Fault where
  deriving DecidableEq, Repr

/-- Reasons a step could be refused. -/
inductive Refusal where
  /-- An instruction whose meaning is not written, raised by an arm of `exec` only. No arm raises it: every command of R50
  has its meaning. Safe (the model stops where the hardware goes on). -/
  | notModelled (mnemonic : String)
  deriving DecidableEq, Repr

/-- The engine after power-up, with its draws numbered from `n` on (R99): keys and counter drawn, STATUS 0, no command
pending, no completion presented, no reset requested. -/
def State.powerUp (n : Nat) : State :=
  { keys := drawKeys n
    counter := drawCounter n
    status := 0#8
    accepted := []
    completions := []
    rst := false
    drawIx := afterDraws n }

/-- The machine right after reset (R99). Its keys and counter are draws, as the rule says (log 2); that its draws are
numbered from 0 on is a DESIGN CHOICE (log 1). -/
def State.reset : State := State.powerUp 0

end Sys2Proof.Machine
end

