-- ==== Sys2Proof/Machine/Flags.lean ====
section
/-! DEFINITION. The STATUS register (10_state.md R19 to R23; 60_exceptions.md R86). There are no other flags (R25). -/

namespace Sys2Proof.Machine

/-- `STATUS.SEEDED`, bit 0 (R20). -/
def seeded (s : State) : Bool := s.status.getLsbD 0

/-- `STATUS.UNSEEDED_USE`, bit 1 (R21). -/
def unseededUse (s : State) : Bool := s.status.getLsbD 1

/-- `STATUS.BADCMD`, bit 2 (R22). -/
def badcmd (s : State) : Bool := s.status.getLsbD 2

/-- The bits of STATUS that exist; bits 7:3 are hardwired 0 (R19, R23). -/
def statusMask : BitVec 8 := 0b0000_0111#8

/-- What the `status` output shows (R46, R48): STATUS, with its hardwired bits 0. -/
def statusOut (s : State) : BitVec 8 := s.status &&& statusMask

/-- `status.SEEDED <- 1` -/
def setSeeded (s : State) : State := { s with status := s.status ||| 0b001#8 }

/-- `status.UNSEEDED_USE <- 1`, the mark of code 1 (R86). -/
def markUnseededUse (s : State) : State := { s with status := s.status ||| 0b010#8 }

/-- `status.BADCMD <- 1`, the mark of code 2 (R86). -/
def markBadcmd (s : State) : State := { s with status := s.status ||| 0b100#8 }

/-- Every STATUS bit <- 0, which only reset does (R19, R99). -/
def clearStatus (s : State) : State := { s with status := 0#8 }

end Sys2Proof.Machine
end

