-- ==== Sys2Proof/WellFormed.lean ====
section
/-! DEFINITION. Which terms are well formed.
Commands: the operand widths are in the types, every 64-bit seed is legal (R51), every 832-bit image is legal (R52), so
every `Instr` is well formed. A command on the port is canonical where its unread buses are 0, as the spec's listings write
them (R56); a command that is not canonical is legal all the same (R49).
Listing lines: the checks are those of the grammar of R56 (ranges of `u32` and `u64`, 24 keys, a name bound earlier). -/

namespace Sys2Proof

/-- Every command with its operands is legal (R51, R52, R54). -/
def Instr.wellFormed : Instr → Bool
  | .nop => true
  | .seed _ => true
  | .next => true
  | .getState => true
  | .setState _ => true
  | .reserved5 => true
  | .reserved6 => true
  | .reserved7 => true

/-- Only SEED reads `cmd_seed` (R49, R50). -/
def Cmd.readsSeed (c : Cmd) : Bool := c.op == 1#3

/-- Only SET_STATE reads `cmd_image` (R49, R50). -/
def Cmd.readsImage (c : Cmd) : Bool := c.op == 4#3

/-- "Unused operand buses are written as 0 in this spec's listings" (R56). -/
def Cmd.canonical (c : Cmd) : Bool :=
  (c.readsSeed || c.seed == 0#64) && (c.readsImage || c.image == 0#832)

/-- An image operand of the grammar of R56: a name bound earlier, or 24 `u32` and one `u64`. -/
def ImageArg.wellFormed (bound : List HostName) : ImageArg → Bool
  | .bound n => bound.contains n
  | .literal keys counter =>
    keys.length == 24 && keys.all (fun k => decide (k < 2 ^ 32)) && decide (counter < 2 ^ 64)

/-- A line of the grammar of R56 to R58, where `bound` lists the names that `GET_STATE -> name` bound earlier. -/
def Line.wellFormed (bound : List HostName) : Line → Bool
  | .blank => true
  | .nop => true
  | .seed v => decide (v < 2 ^ 64)
  | .next _ => true
  | .getState _ => true
  | .setState a => a.wellFormed bound
  | .seedDefault => true
  | .seedGlobal v => decide (v < 2 ^ 64)
  | .nextGlobal _ => true

end Sys2Proof
end

