-- ==== Sys2Proof/Decode.lean ====
section
/-! DEFINITION. Decoding and encoding a command (30_encoding.md R49 to R55; spec/opcode_table.json).
"A decoder needs only `op`" (R49). All eight opcodes are commands (R50), so decoding is total and refuses nothing. -/

namespace Sys2Proof

/-- The opcode map of R50, with the operand bus each command reads. -/
def decode (c : Cmd) : Instr :=
  match c.op.toFin with
  | 0 => .nop
  | 1 => .seed c.seed
  | 2 => .next
  | 3 => .getState
  | 4 => .setState c.image
  | 5 => .reserved5
  | 6 => .reserved6
  | 7 => .reserved7

/-- The opcode of a command (R50), which its completion repeats as `rsp_op` (R47). -/
def opcodeOf : Instr → Opcode
  | .nop => 0b000#3
  | .seed _ => 0b001#3
  | .next => 0b010#3
  | .getState => 0b011#3
  | .setState _ => 0b100#3
  | .reserved5 => 0b101#3
  | .reserved6 => 0b110#3
  | .reserved7 => 0b111#3

/-- The command as the host puts it on the port (R56): "Unused operand buses are written as 0". -/
def encode : Instr → Cmd
  | .nop => { op := 0b000#3, seed := 0, image := 0 }
  | .seed v => { op := 0b001#3, seed := v, image := 0 }
  | .next => { op := 0b010#3, seed := 0, image := 0 }
  | .getState => { op := 0b011#3, seed := 0, image := 0 }
  | .setState img => { op := 0b100#3, seed := 0, image := img }
  | .reserved5 => { op := 0b101#3, seed := 0, image := 0 }
  | .reserved6 => { op := 0b110#3, seed := 0, image := 0 }
  | .reserved7 => { op := 0b111#3, seed := 0, image := 0 }

/-- A command as one 899-bit word `{cmd_image, cmd_seed, cmd_op}`. The spec gives the three buses and no packing; this
one keeps `op` at bits 2:0, where spec/opcode_table.json numbers it. DESIGN CHOICE, log 7. -/
def Cmd.toWord (c : Cmd) : BitVec 899 := c.image ++ c.seed ++ c.op

/-- The command whose packing (`Cmd.toWord`) has the bits of `n`. DESIGN CHOICE, log 7. -/
def Cmd.ofBits (n : Nat) : Cmd :=
  { op := BitVec.ofNat 3 n, seed := BitVec.ofNat 64 (n >>> 3), image := BitVec.ofNat 832 (n >>> 67) }

/-- The command whose packing (`Cmd.toWord`) is `w`. -/
def Cmd.ofWord (w : BitVec 899) : Cmd := Cmd.ofBits w.toNat

/-- The command that the `nbits` table bits `w` stand for: every bit above `nbits` is 0. -/
def Cmd.ofTableWord (nbits w : Nat) : Cmd := Cmd.ofBits (w % 2 ^ nbits)

/-- What the decoder reads from an instruction whose bits are `w`, numbered as spec/opcode_table.json numbers them. It
never refuses (R50). -/
def decodeTableWord (nbits w : Nat) : Option Instr :=
  some (decode (Cmd.ofTableWord nbits w))

end Sys2Proof
end

