-- ==== Sys2Proof/Machine/ImageLayout.lean ====
section
/-! DEFINITION. The state image (42_state_access.md R78, R79) and its serialisation (20_memory.md R32). -/

namespace Sys2Proof.Machine

/-- `image_of` (R78, R79): `{counter, keys[23], ..., keys[0]}`. -/
def imageOf (keys : Keys) (counter : U64) : Image :=
  BitVec.ofNat 832 (concatWords keys.toList + 2 ^ 768 * counter.toNat)

/-- The keys of `load_image(v)` (R79): `keys[i] = v[32*i+31 : 32*i]`. -/
def imageKeys (v : Image) : Keys := keysOf (fun i => v.extractLsb' (32 * i) 32)

/-- The counter of `load_image(v)` (R79): `v[831:768]`. -/
def imageCounter (v : Image) : U64 := v.extractLsb' 768 64

/-- The 104-byte little-endian serialisation (R32): `byte[j] = image[8*j + 7 : 8*j]`. -/
def imageBytes (v : Image) : List Byte := (List.range 104).map (fun j => v.extractLsb' (8 * j) 8)

/-- The image a host restores from its 104 bytes (R32); any other number of bytes is no image. -/
def imageOfBytes (bs : List Byte) : Option Image :=
  if bs.length = 104 then some (BitVec.ofNat 832 (concatWords bs)) else none

end Sys2Proof.Machine
end

