-- ==== Sys2Proof/Machine/Operands.lean ====
section
/-! DEFINITION. Operand and response forms (30_encoding.md R47, R51 to R53). The decoder hands SEED the whole seed bus and
SET_STATE the whole image bus; here they become what the commands use, and a command's result becomes its completion. -/

namespace Sys2Proof.Machine

/-- The seed operand is the whole bus "as a u64, with no extension, scaling or shifting" (R51). -/
def seedOperand (bus : U64) : U64 := bus

/-- The image operand split into its key fields (R52, R78). -/
def imageOperandKeys (bus : Image) : Keys := imageKeys bus

/-- The image operand split into its counter field (R52, R78). -/
def imageOperandCounter (bus : Image) : U64 := imageCounter bus

/-- "Completion only" (R50). -/
def completionOnly (i : Instr) : Completion := { op := opcodeOf i, response := .none }

/-- `respond_data(v)` (00_scope.md R11). -/
def dataCompletion (i : Instr) (v : U64) : Completion := { op := opcodeOf i, response := .output v }

/-- `respond_image(v)` (00_scope.md R11). -/
def imageCompletion (i : Instr) (v : Image) : Completion := { op := opcodeOf i, response := .image v }

end Sys2Proof.Machine
end

