-- ==== Sys2Proof/Machine/Ops.lean ====
section
/-! DEFINITION. The operations over the engine's registers and ports that the meanings share (00_scope.md R11).
There is no exception to take and none to return from (60_exceptions.md R85, R88, R89): what stands in their place is the
marks of Machine/Flags.lean and, as the one way to clear them, the reset transition here (R99, R100). -/

namespace Sys2Proof.Machine

/-- `for i in 0 .. 23: keys[i] <- k[i]` (R66, R81): no command writes a single entry (R15). -/
def writeKeys (k : Keys) (s : State) : State := { s with keys := k }

/-- `counter <- c` (R17). -/
def writeCounter (c : U64) (s : State) : State := { s with counter := c }

/-- A command completes (R47): its one completion joins those presented, behind the earlier ones (R40). -/
def complete (c : Completion) (s : State) : State := { s with completions := s.completions ++ [c] }

/-- The value of the next 64-bit draw (R12). -/
def nextDraw64 (s : State) : U64 := Config.draw64 s.drawIx

/-- One draw has been taken: the next one is another (R12, log 1). -/
def advanceDraw (s : State) : State := { s with drawIx := s.drawIx + 1 }

/-- "every key and the counter become draws" (R75, R99). -/
def drawState (s : State) : State :=
  { s with keys := drawKeys s.drawIx, counter := drawCounter s.drawIx, drawIx := afterDraws s.drawIx }

/-- "A reset abandons every command that has been accepted but has not completed" (R100). -/
def abandonAccepted (s : State) : State := { s with accepted := [] }

/-- The request has been served (log 4). -/
def releaseReset (s : State) : State := { s with rst := false }

/-- The reset transition (R99, R100): keys and counter drawn, STATUS 0, pending commands abandoned with no completion.
Completions presented before it stay until the host takes them (log 5). -/
def resetTransition (s : State) : State :=
  releaseReset (abandonAccepted (clearStatus (drawState s)))

/-- The next accepted command, oldest first (R38), and the state without it. -/
def fetch (s : State) : Option (Cmd × State) :=
  match s.accepted with
  | [] => none
  | c :: rest => some (c, { s with accepted := rest })

end Sys2Proof.Machine
end

