-- ==== Sys2Proof/Machine/Generation.lean ====
section
/-! DEFINITION. The command NEXT (41_feistel_generation.md R75). -/

namespace Sys2Proof.Machine

/-- NEXT with SEEDED = 1 (R75): respond the Feistel pass of the counter before the increment, then advance it. -/
def nextSeeded (s : State) : State :=
  complete (dataCompletion .next (feistel s.keys s.counter)) (writeCounter (ctrInc s.counter) s)

/-- NEXT with SEEDED = 0 (R75): respond a draw; every key and the counter become draws; set UNSEEDED_USE. -/
def nextUnseeded (s : State) : State :=
  complete (dataCompletion .next (nextDraw64 s)) (markUnseededUse (drawState (advanceDraw s)))

/-- The state NEXT leaves (R75). -/
def nextAfter (s : State) : State := if seeded s then nextSeeded s else nextUnseeded s

/-- NEXT (R75). -/
def execNext (s : State) : Host.Outcome State Fault Refusal := .next (nextAfter s)

end Sys2Proof.Machine
end

