-- ==== Sys2Proof/Machine/NopReserved.lean ====
section
/-! DEFINITION. The command NOP and the three reserved opcodes (42_state_access.md R83, R84). -/

namespace Sys2Proof.Machine

/-- The state NOP leaves (R83): no register changed, the command completed. -/
def nopAfter (s : State) : State := complete (completionOnly .nop) s

/-- NOP (R83). -/
def execNop (s : State) : Host.Outcome State Fault Refusal := .next (nopAfter s)

/-- The state a reserved opcode leaves (R84): BADCMD set, nothing else changed, the command completed. -/
def reservedAfter (i : Instr) (s : State) : State := complete (completionOnly i) (markBadcmd s)

/-- RESERVED_5, op 101 (R84). -/
def execReserved5 (s : State) : Host.Outcome State Fault Refusal := .next (reservedAfter .reserved5 s)

/-- RESERVED_6, op 110 (R84). -/
def execReserved6 (s : State) : Host.Outcome State Fault Refusal := .next (reservedAfter .reserved6 s)

/-- RESERVED_7, op 111 (R84). -/
def execReserved7 (s : State) : Host.Outcome State Fault Refusal := .next (reservedAfter .reserved7 s)

end Sys2Proof.Machine
end

