-- ==== Sys2Proof/Machine/KeySchedule.lean ====
section
/-! DEFINITION. The unit `lcg_key_schedule` (40_key_schedule.md R59 to R63). -/

namespace Sys2Proof.Machine

/-- `lcg_step(acc)` (R59): `(acc * LCG_MUL + LCG_INC) mod 2^64`. -/
def lcgStep (acc : U64) : U64 := acc * lcgMul + lcgInc

/-- `tmp` of R60 before the fold: `(rotl_64(acc, KEY_ROT) * KEY_MUL) mod 2^64`. The 64-bit width of the product is DEDUCED
by the spec (91_not_in_source.md N10; log 15). -/
def keyProduct (acc : U64) : U64 := rotl acc keyRot * keyMul

/-- `tmp ^ (tmp >> KEY_FOLD)` (R60). -/
def foldHigh (tmp : U64) : U64 := tmp ^^^ (tmp >>> keyFold)

/-- `derive_key(acc)` (R60): the upper half of the folded product (90_conflicts.md C3). -/
def deriveKey (acc : U64) : U32 := (foldHigh (keyProduct acc)).extractLsb' 32 32

/-- The loop of R62 from accumulator `acc`, `n` rounds: advance first, then derive. -/
def keyList : Nat → U64 → List U32
  | 0, _ => []
  | n + 1, acc => deriveKey (lcgStep acc) :: keyList n (lcgStep acc)

theorem keyList_length (n : Nat) (acc : U64) : (keyList n acc).length = n := by
  induction n generalizing acc with
  | zero => rfl
  | succ n ih => simp [keyList, ih]

/-- `key_schedule(seed)` (R62): 24 keys in order, a pure function of the seed (R63). -/
def keySchedule (seed : U64) : Keys := ⟨⟨keyList numRounds seed⟩, keyList_length numRounds seed⟩

end Sys2Proof.Machine
end

