-- ==== Sys2Proof/Machine/Seeding.lean ====
section
/-! DEFINITION. The command SEED (40_key_schedule.md R66). -/

namespace Sys2Proof.Machine

/-- The state SEED leaves (R66): the key schedule of the seed loaded, the counter cleared, SEEDED set, the command
completed. -/
def seedAfter (v : U64) (s : State) : State :=
  complete (completionOnly (.seed v))
    (setSeeded (writeCounter 0#64 (writeKeys (keySchedule (seedOperand v)) s)))

/-- SEED (R66). -/
def execSeed (v : U64) (s : State) : Host.Outcome State Fault Refusal := .next (seedAfter v s)

end Sys2Proof.Machine
end

