-- ==== Sys2Proof/Machine/StateAccess.lean ====
section
/-! DEFINITION. The commands GET_STATE and SET_STATE (42_state_access.md R80, R81). -/

namespace Sys2Proof.Machine

/-- The state GET_STATE leaves (R80): the image of the keys and the counter responded, no register changed. -/
def getStateAfter (s : State) : State := complete (imageCompletion .getState (imageOf s.keys s.counter)) s

/-- GET_STATE (R80). -/
def execGetState (s : State) : Host.Outcome State Fault Refusal := .next (getStateAfter s)

/-- The state SET_STATE leaves (R81): every key and the counter loaded from the image, SEEDED set, the command
completed. -/
def setStateAfter (img : Image) (s : State) : State :=
  complete (completionOnly (.setState img))
    (setSeeded (writeCounter (imageOperandCounter img) (writeKeys (imageOperandKeys img) s)))

/-- SET_STATE (R81). -/
def execSetState (img : Image) (s : State) : Host.Outcome State Fault Refusal := .next (setStateAfter img s)

end Sys2Proof.Machine
end

