-- ==== Sys2Proof/Machine/Dispatch.lean ====
section
/-! DEFINITION. `exec`: one arm for each command of 30_encoding.md R50, each a direct call of its meaning. -/

namespace Sys2Proof.Machine

/-- `exec(S, cmd) = (S', resp)` (00_scope.md R13); the response is the completion that S' holds last. -/
def exec (i : Instr) (s : State) : Host.Outcome State Fault Refusal :=
  match i with
  | .nop => Sys2Proof.Machine.execNop s
  | .seed v => Sys2Proof.Machine.execSeed v s
  | .next => Sys2Proof.Machine.execNext s
  | .getState => Sys2Proof.Machine.execGetState s
  | .setState img => Sys2Proof.Machine.execSetState img s
  | .reserved5 => Sys2Proof.Machine.execReserved5 s
  | .reserved6 => Sys2Proof.Machine.execReserved6 s
  | .reserved7 => Sys2Proof.Machine.execReserved7 s

end Sys2Proof.Machine
end

