-- ==== Sys2Proof/Machine/Step.lean ====
section
/-! DEFINITION. One step of the engine: the reset transition where `rst` is asserted (70_reset_and_hazards.md R99), else
the oldest accepted command, executed whole (20_memory.md R38, R39), else nothing (60_exceptions.md R90). -/

namespace Sys2Proof.Machine

/-- One step (R13, R39, R90, R99). -/
def step (s : State) : Host.Outcome State Fault Refusal :=
  if s.rst then .next (resetTransition s)
  else
    match fetch s with
    | none => .next s
    | some (c, s') => exec (decode c) s'

/-- `s` with the command of the table bits `w` as the oldest accepted one and no reset pending, so that the very next step
executes it (log 8). -/
def State.withFetchWord (s : State) (nbits w : Nat) : State :=
  { s with accepted := Cmd.ofTableWord nbits w :: s.accepted, rst := false }

end Sys2Proof.Machine
end

