-- ==== Sys2Proof/Machine/Port.lean ====
section
/-! DEFINITION. The host's side of the ports (30_encoding.md R46 to R48): what the host may do to the engine between steps,
and what it sees. None of it is a step of the engine. -/

namespace Sys2Proof.Machine

/-- `cmd_ready` (R46): the engine can accept a command whenever no reset is pending (R100, R101; DEDUCED, log 3). -/
def cmdReady (s : State) : Bool := !s.rst

/-- The host presents `c` with `cmd_valid` = 1. It is accepted when `cmd_ready` is 1 too, and captured whole (R47, R105);
else nothing happens and the host may present it again (a host that follows a listing does, log 16). -/
def acceptCommand (c : Cmd) (s : State) : State :=
  if cmdReady s then { s with accepted := s.accepted ++ [c] } else s

/-- The host asserts `rst` (R99). -/
def requestReset (s : State) : State := { s with rst := true }

/-- Power is lost and comes back (60_exceptions.md R98): "no state survives it", so nothing is pending or presented, and the
registers are as R99 leaves them, with draws that no earlier one shares. -/
def cyclePower (s : State) : State := State.powerUp s.drawIx

/-- `rsp_valid` (R46, R47): a completion is presented. -/
def rspValid (s : State) : Bool := !s.completions.isEmpty

/-- `rsp_op` of the completion presented (R47). -/
def rspOp (s : State) : Option Opcode := s.completions.head?.map Completion.op

/-- `rsp_data`, defined only in a NEXT completion (R47). -/
def rspData (s : State) : Option U64 :=
  match s.completions with
  | { op := _, response := .output v } :: _ => some v
  | _ => none

/-- `rsp_image`, defined only in a GET_STATE completion (R47). -/
def rspImage (s : State) : Option Image :=
  match s.completions with
  | { op := _, response := .image v } :: _ => some v
  | _ => none

/-- The host takes the completion presented, the oldest one (R40, R47). -/
def takeCompletion (s : State) : State := { s with completions := s.completions.tail }

/-- "every command already issued has completed" (R58, R104): nothing is pending, so `status` reflects all of it. -/
def quiescent (s : State) : Bool := s.accepted.isEmpty && !s.rst

end Sys2Proof.Machine
end

