-- ==== Sys2Proof/Machine/Listing.lean ====
section
/-! DEFINITION. The host's listings and pseudo-commands (30_encoding.md R56 to R58): assembling a line to commands, what a
host that follows a listing does, and reading a line's text. It is host behaviour over the engine's ports, not a part of the
engine's step. What the grammar leaves open is fixed in log 13, what the host does while the engine is not ready in log 16. -/

namespace Sys2Proof.Machine

/-- What `-> name` binds (R56): the NEXT output or the GET_STATE image. -/
inductive HostValue where
  | output (v : U64)
  | image (v : Image)
  deriving DecidableEq, Repr

/-- The names a host has bound, newest first. -/
abbrev HostEnv := List (HostName × HostValue)

/-- The image operand's value (R56, R78): an image bound earlier, or the image of 24 `u32` and one `u64`. -/
def imageArgValue (env : HostEnv) : ImageArg → Option Image
  | .bound n =>
    match env.lookup n with
    | some (.image v) => some v
    | some (.output _) => none
    | none => none
  | .literal keys counter =>
    if (ImageArg.literal keys counter).wellFormed [] then
      some (imageOf (keysOf (fun i => BitVec.ofNat 32 (keys.getD i 0))) (BitVec.ofNat 64 counter))
    else none

/-- A `u64` of a listing (R56). -/
def seedArgValue (v : Nat) : Option U64 := if v < 2 ^ 64 then some (BitVec.ofNat 64 v) else none

/-- The commands a line assembles to (R56 to R58), where `ready` is `status.SEEDED` as the host reads it. -/
def assembleLine (env : HostEnv) (ready : Bool) : Line → Option (List Cmd)
  | .blank => some []
  | .nop => some [encode .nop]
  | .seed v => (seedArgValue v).map (fun x => [encode (.seed x)])
  | .next _ => some [encode .next]
  | .getState _ => some [encode .getState]
  | .setState a => (imageArgValue env a).map (fun x => [encode (.setState x)])
  | .seedDefault => some [encode (.seed defaultSeed)]
  | .seedGlobal v => (seedArgValue v).map (fun x => [encode (.seed x)])
  | .nextGlobal _ => some (if ready then [encode .next] else [encode (.seed defaultSeed), encode .next])

/-- The name a line binds its response to (R56). -/
def lineBinds : Line → Option HostName
  | .blank => none
  | .nop => none
  | .seed _ => none
  | .next b => b
  | .getState b => b
  | .setState _ => none
  | .seedDefault => none
  | .seedGlobal _ => none
  | .nextGlobal b => b

/-- Only NEXT.GLOBAL reads `status`, so only it waits first (R58, R104). -/
def lineWaits : Line → Bool
  | .blank => false
  | .nop => false
  | .seed _ => false
  | .next _ => false
  | .getState _ => false
  | .setState _ => false
  | .seedDefault => false
  | .seedGlobal _ => false
  | .nextGlobal _ => true

/-- The host holds `c` on the port with `cmd_valid` = 1 until the engine accepts it (R47). The engine is not ready only while a
reset is asked for, and one step serves the reset, after which it "accepts commands again" (R100): that step is the whole wait
(DESIGN CHOICE, log 16: the spec does not say what a host that follows a listing does while the engine is not ready). -/
def presentUntilAccepted (c : Cmd) (s : State) : Host.Outcome State Fault Refusal :=
  if cmdReady s then .next (acceptCommand c s)
  else
    match step s with
    | .next t => .next (acceptCommand c t)
    | .fault f => .fault f
    | .refused r => .refused r

/-- The host issues commands one after another, each held until it is accepted (log 16); it need not wait between them
(R103). -/
def issueAll : List Cmd → State → Host.Outcome State Fault Refusal
  | [], s => .next s
  | c :: cs, s =>
    match presentUntilAccepted c s with
    | .next t => issueAll cs t
    | .fault f => .fault f
    | .refused r => .refused r

/-- "wait until every command already issued has completed" (R58): a step for each pending command, and one for a reset
that may be pending, which abandons them instead (R100). -/
def waitAll (s : State) : Host.Outcome State Fault Refusal := Sys2Proof.core.run (s.accepted.length + 1) s

/-- The value the newest completion carries. -/
def lastValue (s : State) : Option HostValue :=
  match s.completions.getLast? with
  | some { op := _, response := .output v } => some (.output v)
  | some { op := _, response := .image v } => some (.image v)
  | _ => none

/-- Bind the newest response to the line's name, if it has one (R56). `followLine` calls it where the line's own command,
accepted last (log 16), has completed, so the newest response is that command's (R40). -/
def bindResponse (name : Option HostName) (env : HostEnv) (s : State) : HostEnv :=
  match name, lastValue s with
  | some n, some v => (n, v) :: env
  | _, _ => env

/-- The outcome of waiting where `wait` holds, else the state as it is. -/
def waitIf (wait : Bool) (s : State) : Host.Outcome State Fault Refusal := if wait then waitAll s else .next s

/-- What a host does once it knows a line's commands: issue them and, where the line binds a name, wait for the response and
bind it (R56; DESIGN CHOICE, log 13: the spec does not say when the host waits for a response that it binds). -/
def issueLine (name : Option HostName) (cs : List Cmd) (env : HostEnv) (s : State) :
    Host.Outcome (HostEnv × State) Fault Refusal :=
  match issueAll cs s with
  | .fault f => .fault f
  | .refused r => .refused r
  | .next t =>
    match waitIf name.isSome t with
    | .fault f => .fault f
    | .refused r => .refused r
    | .next u => .next (bindResponse name env u, u)

/-- What a host does for one line: wait where the line reads `status` (R58), then issue its commands and bind its name. No
answer for a line that does not assemble (log 13). -/
def followLine (l : Line) (env : HostEnv) (s : State) : Option (Host.Outcome (HostEnv × State) Fault Refusal) :=
  match waitIf (lineWaits l) s with
  | .fault f => some (.fault f)
  | .refused r => some (.refused r)
  | .next s1 => (assembleLine env (seeded s1) l).map (fun cs => issueLine (lineBinds l) cs env s1)

/-- The tokens of a line. -/
inductive Token where
  | word (cs : List Char)
  | number (n : Nat)
  | arrow
  | openBrace
  | closeBrace
  | comma
  | semicolon
  deriving DecidableEq, Repr

/-- The value of a digit of base at most 16. -/
def digitValue (c : Char) : Option Nat :=
  if '0'.toNat ≤ c.toNat ∧ c.toNat ≤ '9'.toNat then some (c.toNat - '0'.toNat)
  else if 'a'.toNat ≤ c.toNat ∧ c.toNat ≤ 'f'.toNat then some (c.toNat - 'a'.toNat + 10)
  else if 'A'.toNat ≤ c.toNat ∧ c.toNat ≤ 'F'.toNat then some (c.toNat - 'A'.toNat + 10)
  else none

/-- Digits of a base with "`_` allowed between digits" (R56); `afterDigit` says whether the character before was one. -/
def readDigits (base : Nat) : Nat → Bool → List Char → Option Nat
  | acc, afterDigit, [] => if afterDigit then some acc else none
  | acc, afterDigit, c :: cs =>
    if c = '_' then (if afterDigit then readDigits base acc false cs else none)
    else
      match digitValue c with
      | some d => if d < base then readDigits base (acc * base + d) true cs else none
      | none => none

/-- `decimal | "0x" hex digits` (R56). The prefix may be written `0X` too, and the hex digits in either case (DESIGN CHOICE,
log 13: "the assembler does not distinguish cases" stands in R56 beside mnemonics only). -/
def readNumber : List Char → Option Nat
  | '0' :: 'x' :: cs => readDigits 16 0 false cs
  | '0' :: 'X' :: cs => readDigits 16 0 false cs
  | cs => readDigits 10 0 false cs

/-- Letters, digits, `_` and `.` (the pseudo-commands' names hold a point). -/
def isWordChar (c : Char) : Bool := c.isAlphanum || c == '_' || c == '.'

/-- The token of a run of word characters, in reverse; none for an empty run; no answer for a malformed number. -/
def wordToken (cur : List Char) : Option (List Token) :=
  match cur.reverse with
  | [] => some []
  | c :: cs => if c.isDigit then (readNumber (c :: cs)).map (fun n => [.number n]) else some [.word (c :: cs)]

/-- The tokens of a line; `;` outside braces begins the comment (R56). Braces are the characters 123 and 125. -/
def lexLine (inBraces : Bool) (cur : List Char) : List Char → Option (List Token)
  | [] => wordToken cur
  | c :: cs =>
    if isWordChar c then lexLine inBraces (c :: cur) cs
    else
      match wordToken cur with
      | none => none
      | some before =>
        if c = ' ' ∨ c = '\t' ∨ c = '\r' then (lexLine inBraces [] cs).map (before ++ ·)
        else if c = ';' then
          (if inBraces then (lexLine inBraces [] cs).map (before ++ .semicolon :: ·) else some before)
        else if c = ',' then (lexLine inBraces [] cs).map (before ++ .comma :: ·)
        else if c.toNat = 123 then (lexLine true [] cs).map (before ++ .openBrace :: ·)
        else if c.toNat = 125 then (lexLine false [] cs).map (before ++ .closeBrace :: ·)
        else
          match c, cs with
          | '-', '>' :: rest => (lexLine inBraces [] rest).map (before ++ .arrow :: ·)
          | _, _ => none

/-- `u32 ("," u32)* ";" u64` and the closing brace (R56); the count and the ranges are checked in assembling. -/
def readLiteral : List Token → Option (List Nat × Nat)
  | .number k :: .semicolon :: .number c :: .closeBrace :: [] => some ([k], c)
  | .number k :: .comma :: ts => (readLiteral ts).map (fun r => (k :: r.1, r.2))
  | _ => none

/-- The commands and pseudo-commands by name; "the assembler does not distinguish cases" (R56). -/
inductive Mnemonic where
  | nop
  | seed
  | next
  | getState
  | setState
  | seedDefault
  | seedGlobal
  | nextGlobal
  deriving DecidableEq, Repr

/-- The mnemonics of R50, R57 and R58 as written. -/
def mnemonicNames : List (List Char × Mnemonic) :=
  [(['N', 'O', 'P'], .nop), (['S', 'E', 'E', 'D'], .seed), (['N', 'E', 'X', 'T'], .next),
   (['G', 'E', 'T', '_', 'S', 'T', 'A', 'T', 'E'], .getState),
   (['S', 'E', 'T', '_', 'S', 'T', 'A', 'T', 'E'], .setState),
   (['S', 'E', 'E', 'D', '.', 'D', 'E', 'F', 'A', 'U', 'L', 'T'], .seedDefault),
   (['S', 'E', 'E', 'D', '.', 'G', 'L', 'O', 'B', 'A', 'L'], .seedGlobal),
   (['N', 'E', 'X', 'T', '.', 'G', 'L', 'O', 'B', 'A', 'L'], .nextGlobal)]

/-- The optional `"->" name` after a command (R56); no answer where other tokens follow. -/
def readBinding : List Token → Option (Option HostName)
  | [] => some none
  | [.arrow, .word n] => some (some n)
  | _ => none

/-- The line that a mnemonic and the tokens after it make (R56 to R58). -/
def readOperands (m : Mnemonic) (ts : List Token) : Option Line :=
  match m, ts with
  | .nop, [] => some .nop
  | .seed, [.number v] => some (.seed v)
  | .next, ts => (readBinding ts).map .next
  | .getState, ts => (readBinding ts).map .getState
  | .setState, [.word n] => some (.setState (.bound n))
  | .setState, .openBrace :: ts => (readLiteral ts).map (fun r => .setState (.literal r.1 r.2))
  | .seedDefault, [] => some .seedDefault
  | .seedGlobal, [.number v] => some (.seedGlobal v)
  | .nextGlobal, ts => (readBinding ts).map .nextGlobal
  | _, _ => none

/-- The line that a text without line ends reads as (R56); no answer where the grammar has none. -/
def readLine (text : List Char) : Option Line :=
  match lexLine false [] text with
  | none => none
  | some [] => some .blank
  | some (.word w :: ts) =>
    match mnemonicNames.lookup (w.map Char.toUpper) with
    | some m => readOperands m ts
    | none => none
  | some _ => none

/-- The lines of a text, cut at its line ends. -/
def cutLines (cur : List Char) : List Char → List (List Char)
  | [] => [cur.reverse]
  | c :: cs => if c = '\n' then cur.reverse :: cutLines [] cs else cutLines (c :: cur) cs

/-- `listing := line*` (R56). -/
def readListing (text : List Char) : Option (List Line) := (cutLines [] text).mapM readLine

/-- A host follows a listing line by line (R56); there is no answer for a listing with a line that does not assemble
(DESIGN CHOICE, log 13). -/
def followListing : List Line → HostEnv → State → Option (Host.Outcome (HostEnv × State) Fault Refusal)
  | [], env, s => some (.next (env, s))
  | l :: ls, env, s =>
    match followLine l env s with
    | some (.next (env', s')) => followListing ls env' s'
    | some (.fault f) => some (.fault f)
    | some (.refused r) => some (.refused r)
    | none => none

end Sys2Proof.Machine
end

