-- ==== Sys2Proof/Machine/Platform.lean ====
section
/-! DEFINITION. Several engine instances side by side (60_exceptions.md R95; 20_memory.md R41): "each independent stream is
a separate engine instance with its own `keys`, `counter` and STATUS". They need no identifiers: an instance is its place in
a list. Which context uses which is `CONTEXT_MAP`, open (log 12). -/

namespace Sys2Proof.Machine

/-- Instance `i` of the platform takes one step; the spec fixes no order between instances, so the caller says which. -/
def platformStep (i : Nat) (p : List State) : Host.Outcome (List State) Fault Refusal :=
  match p[i]? with
  | none => .next p
  | some s =>
    match step s with
    | .next t => .next (p.set i t)
    | .fault f => .fault f
    | .refused r => .refused r

/-- A host acts on the ports of instance `i` (R46, R96). -/
def platformPort (i : Nat) (act : State → State) (p : List State) : List State :=
  match p[i]? with
  | none => p
  | some s => p.set i (act s)

end Sys2Proof.Machine
end

