-- ==== Sys2Proof/Safety.lean ====
section
/-! DEFINITION. Runs, what is observed of them, and what counts as a safe run (70_reset_and_hazards.md R107;
60_exceptions.md R86). -/

namespace Sys2Proof.Machine

/-- "executing `exec` on each command in acceptance order" (R39): a finite run of commands (R107). It stops at the first
fault or refusal. -/
def runCommands : List Cmd → State → Host.Outcome State Fault Refusal
  | [], s => .next s
  | c :: cs, s =>
    match exec (decode c) s with
    | .next t => runCommands cs t
    | .fault f => .fault f
    | .refused r => .refused r

/-- The state once every command already issued has completed (R58), or was abandoned by the reset that is asked for (R100):
what waiting gives, said without steps. -/
def settle (s : State) : Host.Outcome State Fault Refusal :=
  if s.rst then .next (resetTransition s) else runCommands s.accepted { s with accepted := [] }

/-- The observation of a run (R107): "the list of responses in order, together with `keys`, `counter` and `STATUS` after
the last command". -/
structure Observation where
  responses : List Completion
  keys : Keys
  counter : U64
  status : BitVec 8
  deriving DecidableEq, Repr

/-- The observation of a run that started at `s` and ended at `t`: the completions that `s` did not hold yet are the
run's. -/
def observe (s t : State) : Observation :=
  { responses := t.completions.drop s.completions.length
    keys := t.keys
    counter := t.counter
    status := statusOut t }

/-- A run that ends in `t` is one a claim may rest on: no mark is set (R21, R22, R86, R107). -/
def marksClear (t : State) : Bool := !unseededUse t && !badcmd t

/-- The outputs among a list of completions, in order: what the NEXT commands responded (R40). -/
def outputsOf : List Completion → List U64
  | [] => []
  | c :: cs =>
    match c.response with
    | .none => outputsOf cs
    | .output v => v :: outputsOf cs
    | .image _ => outputsOf cs

/-- The commands that write the counter other than NEXT (R18). -/
def loadsState : Instr → Bool
  | .nop => false
  | .seed _ => true
  | .next => false
  | .getState => false
  | .setState _ => true
  | .reserved5 => false
  | .reserved6 => false
  | .reserved7 => false

/-- The command NEXT. -/
def isNext : Instr → Bool
  | .nop => false
  | .seed _ => false
  | .next => true
  | .getState => false
  | .setState _ => false
  | .reserved5 => false
  | .reserved6 => false
  | .reserved7 => false

/-- The reserved opcodes (R54, R84). -/
def isReserved : Instr → Bool
  | .nop => false
  | .seed _ => false
  | .next => false
  | .getState => false
  | .setState _ => false
  | .reserved5 => true
  | .reserved6 => true
  | .reserved7 => true

/-- The number of NEXT commands among the commands of a run. -/
def countNext (cs : List Cmd) : Nat := cs.countP (fun c => isNext (decode c))

/-- The stored STATUS holds 0 in its hardwired bits (R19, R23): the invariant every step keeps. -/
def reservedClear (s : State) : Bool := s.status.extractLsb' 3 5 == 0#5

end Sys2Proof.Machine
end

