-- ==== Sys2Proof/Certificates/Slice0/Obligations.lean ====
section
/-! DEFINITION. The statements for the provers. Each docstring names the rule of spec/ that it formalises, and says where a
clause is the model's own choice. -/

open Sys2Proof Sys2Proof.Machine

-- Encoding (30_encoding.md)

/-- The eight opcode words of spec/opcode_table.json, with their operand buses 0, and two commands with an operand, packed
as the model's log entry 7 packs them. -/
def Obligations.TableWordsDecode : Prop :=
  decodeTableWord 8 0 = some .nop ∧ decodeTableWord 8 1 = some (.seed 0) ∧
  decodeTableWord 8 2 = some .next ∧ decodeTableWord 8 3 = some .getState ∧
  decodeTableWord 8 4 = some (.setState 0) ∧ decodeTableWord 8 5 = some .reserved5 ∧
  decodeTableWord 8 6 = some .reserved6 ∧ decodeTableWord 8 7 = some .reserved7 ∧
  decodeTableWord 67 (8 * 0x2A + 1) = some (.seed 0x2A#64) ∧
  decodeTableWord 99 (2 ^ 67 * 0xC2A238F1 + 4) = some (.setState 0xC2A238F1#832)

/-- R50: the opcode map. For each opcode, whatever the buses hold: the command it selects with the operand it reads, and
what its completion carries. -/
def Obligations.OpcodeMapAndResponses : Prop :=
  (∀ (seed : U64) (image : Image),
    decode ⟨0b000#3, seed, image⟩ = .nop ∧ decode ⟨0b001#3, seed, image⟩ = .seed seed ∧
    decode ⟨0b010#3, seed, image⟩ = .next ∧ decode ⟨0b011#3, seed, image⟩ = .getState ∧
    decode ⟨0b100#3, seed, image⟩ = .setState image ∧ decode ⟨0b101#3, seed, image⟩ = .reserved5 ∧
    decode ⟨0b110#3, seed, image⟩ = .reserved6 ∧ decode ⟨0b111#3, seed, image⟩ = .reserved7) ∧
  ∀ (c : Cmd) (s : State), ∃ t r, exec (decode c) s = .next t ∧ t.completions = s.completions ++ [⟨c.op, r⟩] ∧
    (c.op = 0b010#3 → ∃ v, r = .output v) ∧ (c.op = 0b011#3 → ∃ v, r = .image v) ∧
    (c.op ≠ 0b010#3 → c.op ≠ 0b011#3 → r = .none)

/-- "An operand bus that a command does not read is ignored" (R49): the command decoded depends on `op`, on the seed bus
for SEED alone, and on the image bus for SET_STATE alone. -/
def Obligations.UnreadBusesIgnored : Prop :=
  ∀ c d : Cmd, c.op = d.op → (c.op = 0b001#3 → c.seed = d.seed) → (c.op = 0b100#3 → c.image = d.image) →
    decode c = decode d

/-- Decode and encode agree for every command with every operand, on the port and in the packed word (the packing is the
model's, log 7). -/
def Obligations.DecodeInvertsEncode : Prop :=
  (∀ i : Instr, decode (encode i) = i) ∧
  (∀ c : Cmd, Cmd.ofWord c.toWord = c) ∧ (∀ w : BitVec 899, (Cmd.ofWord w).toWord = w) ∧
  ∀ i : Instr, decodeTableWord 899 (encode i).toWord.toNat = some i

/-- Encoding what was decoded keeps the opcode and the operand read, and writes the unread buses as 0 (R56); a canonical
command comes back whole. -/
def Obligations.EncodeNormalisesUnreadBuses : Prop :=
  (∀ c : Cmd, encode (decode c) =
    { op := c.op, seed := if c.op = 0b001#3 then c.seed else 0#64,
      image := if c.op = 0b100#3 then c.image else 0#832 }) ∧
  ∀ c : Cmd, c.canonical = true → encode (decode c) = c

/-- What each line of a listing assembles to (R56, R57), and NEXT.GLOBAL's expansion by `status.SEEDED` (R58). That a seed
out of range assembles to nothing is the model's choice (log 13). -/
def Obligations.ListingAssembly : Prop :=
  ∀ (env : HostEnv) (ready : Bool) (b : Option HostName),
    assembleLine env ready .blank = some [] ∧
    assembleLine env ready .nop = some [⟨0b000#3, 0, 0⟩] ∧
    (∀ v : Nat, v < 2 ^ 64 → assembleLine env ready (.seed v) = some [⟨0b001#3, BitVec.ofNat 64 v, 0⟩] ∧
      assembleLine env ready (.seedGlobal v) = some [⟨0b001#3, BitVec.ofNat 64 v, 0⟩]) ∧
    (∀ v : Nat, 2 ^ 64 ≤ v → assembleLine env ready (.seed v) = none ∧
      assembleLine env ready (.seedGlobal v) = none) ∧
    assembleLine env ready (.next b) = some [⟨0b010#3, 0, 0⟩] ∧
    assembleLine env ready (.getState b) = some [⟨0b011#3, 0, 0⟩] ∧
    (∀ (n : HostName) (v : Image), env.lookup n = some (.image v) →
      assembleLine env ready (.setState (.bound n)) = some [⟨0b100#3, 0, v⟩]) ∧
    (∀ (K : Keys) (c : U64),
      assembleLine env ready (.setState (.literal (K.toList.map BitVec.toNat) c.toNat)) =
        some [⟨0b100#3, 0, imageOf K c⟩]) ∧
    assembleLine env ready .seedDefault = some [⟨0b001#3, 1#64, 0⟩] ∧
    assembleLine env true (.nextGlobal b) = some [⟨0b010#3, 0, 0⟩] ∧
    assembleLine env false (.nextGlobal b) = some [⟨0b001#3, 1#64, 0⟩, ⟨0b010#3, 0, 0⟩]

-- Primitives (00_scope.md)

/-- Rotate-left as its formula and as the move of each bit `i` to bit `(i + n) mod w`, at every width. The bit-level reading
of "left" is one the spec marks as from general knowledge (R10, G1; log 10). -/
def Obligations.RotateLeftMovesBits : Prop :=
  ∀ (w : Nat) (x : BitVec w) (n : Nat), n < w →
    rotl x 0 = x ∧
    (0 < n → (rotl x n).toNat = (x.toNat * 2 ^ n % 2 ^ w ||| x.toNat / 2 ^ (w - n)) % 2 ^ w) ∧
    ∀ i, i < w → (rotl x n).getLsbD ((i + n) % w) = x.getLsbD i

-- Key schedule (40_key_schedule.md)

/-- R59: the LCG step, in exact arithmetic with the reduction at the end. -/
def Obligations.LcgStepFormula : Prop :=
  ∀ acc : U64, (lcgStep acc).toNat = (acc.toNat * 6364136223846793005 + 1442695040888963407) % 2 ^ 64

/-- One key, with the fold, from the accumulator after a step, in exact arithmetic. The 64-bit width of the product is an
inference the spec marks as its own (R60 "derived", 91_not_in_source.md N10). -/
def Obligations.DeriveKeyFormula : Prop :=
  ∀ (acc : U64) (tmp : Nat),
    tmp = ((acc.toNat * 2 ^ 9 % 2 ^ 64 + acc.toNat / 2 ^ 55) * 1498817317654829) % 2 ^ 64 →
    (deriveKey acc).toNat = (tmp ^^^ tmp / 2 ^ 32) / 2 ^ 32

/-- The fold changes only the low half, so the key is the upper half of the product whether or not it is folded (the spec
marks R61 as derived). -/
def Obligations.FoldLeavesKeyUnchanged : Prop :=
  (∀ tmp : U64, (foldHigh tmp).extractLsb' 32 32 = tmp.extractLsb' 32 32) ∧
  ∀ acc : U64, deriveKey acc = (rotl acc 9 * 1498817317654829#64).extractLsb' 32 32

/-- R62: key `i` comes from the accumulator after `i + 1` LCG steps from the seed. -/
def Obligations.KeyScheduleIteratesLcg : Prop :=
  ∀ (seed : U64) (i : Nat) (h : i < 24), (keySchedule seed)[i] = deriveKey (lcgStep^[i + 1] seed)

-- Feistel pass and counter (41_feistel_generation.md)

/-- R67, R68: the round function in exact arithmetic, its rotate by `x mod 32`; with rotate amount 0 it is `k + 2x`. The
last two clauses (it is not injective) are what the spec marks as derived from those two. -/
def Obligations.RoundFunctionFormula : Prop :=
  (∀ x k : U32, (round32 x k).toNat =
    (k.toNat + x.toNat +
      (x.toNat * 2 ^ (x.toNat % 32) % 2 ^ 32 + x.toNat / 2 ^ (32 - x.toNat % 32))) % 2 ^ 32) ∧
  (∀ x k : U32, x.extractLsb' 0 5 = 0#5 → round32 x k = k + 2#32 * x) ∧
  round32 0x00000000#32 0 = 0 ∧ round32 0x80000000#32 0 = 0

/-- R71, R72: the pass is 24 rounds of one form, the last one too, and the output is the two halves after them, with no
swap undone. -/
def Obligations.FeistelRunsUniformRounds : Prop :=
  ∀ (K : Keys) (c : U64) (L R : Nat → U32),
    R 0 = c.extractLsb' 0 32 → L 0 = c.extractLsb' 32 32 →
    (∀ (i : Nat) (h : i < 24), L (i + 1) = R i ∧ R (i + 1) = L i ^^^ round32 (R i) K[i]) →
    feistel K c = L 24 ++ R 24

/-- For every key schedule the pass is a bijection, and `feistel_inv` undoes it on both sides (R73, which the spec marks as
derived from R71). -/
def Obligations.FeistelIsBijection : Prop :=
  ∀ K : Keys, Function.Bijective (feistel K) ∧
    (∀ c, feistelInv K (feistel K c) = c) ∧ ∀ o, feistel K (feistelInv K o) = o

/-- R74: the counter wraps and does not saturate. -/
def Obligations.CounterIncrementWraps : Prop :=
  (∀ c : U64, (ctrInc c).toNat = (c.toNat + 1) % 2 ^ 64) ∧ ctrInc 0xFFFF_FFFF_FFFF_FFFF#64 = 0

-- The commands

/-- R66: SEED completes, loads the schedule, clears the counter, sets SEEDED, and changes nothing else; with the rule's
values for seeds 0, 2^64 - 1 and 1. -/
def Obligations.SeedLoadsSchedule : Prop :=
  (∀ (v : U64) (s : State), ∃ t, exec (.seed v) s = .next t ∧
    t.keys = keySchedule v ∧ t.counter = 0 ∧ seeded t = true ∧
    unseededUse t = unseededUse s ∧ badcmd t = badcmd s ∧ (∀ j, 0 < j → t.status.getLsbD j = s.status.getLsbD j) ∧
    t.completions = s.completions ++ [⟨0b001#3, .none⟩] ∧
    t.accepted = s.accepted ∧ t.rst = s.rst ∧ t.drawIx = s.drawIx) ∧
  (keySchedule 0)[0] = deriveKey 1442695040888963407#64 ∧ (keySchedule 0)[0] = 0x0C3472A8#32 ∧
  (keySchedule 0xFFFF_FFFF_FFFF_FFFF#64)[0] = 0x6067AE68#32 ∧
  (keySchedule 1)[0] = 0xC2A238F1#32 ∧ (keySchedule 1)[23] = 0xA4CC40EE#32

/-- NEXT (R75) always completes. With SEEDED = 1 it responds the pass of the counter before the increment, advances the
counter and changes nothing else; with SEEDED = 0 it responds some value, sets UNSEEDED_USE and changes no other STATUS bit
(its output, keys and counter are draws: no clause constrains them). With the rule's values. -/
def Obligations.NextOutputsBlock : Prop :=
  (∀ s : State, ∃ t, exec .next s = .next t ∧
    (seeded s = true → t.completions = s.completions ++ [⟨0b010#3, .output (feistel s.keys s.counter)⟩] ∧
      t.counter = ctrInc s.counter ∧ t.keys = s.keys ∧ t.status = s.status ∧ t.drawIx = s.drawIx) ∧
    (seeded s = false → (∃ v, t.completions = s.completions ++ [⟨0b010#3, .output v⟩]) ∧
      unseededUse t = true ∧ seeded t = false ∧ badcmd t = badcmd s ∧
      ∀ j, j ≠ 1 → t.status.getLsbD j = s.status.getLsbD j) ∧
    t.accepted = s.accepted ∧ t.rst = s.rst) ∧
  feistel (Vector.replicate 24 0) 0 = 0 ∧
  (∀ s : State, ∃ t, runCommands [encode (.seed 1#64), encode .next] s = .next t ∧
    outputsOf (observe s t).responses = [0x0364_C20C_5A83_DADB#64] ∧ t.counter = 1)

/-- The draws of an unseeded NEXT, in the model's form of R12 (DESIGN CHOICE, log 1: `Config.draw32` and `Config.draw64` at
the state's index): the output, every key and the counter are each a draw with an index of its own, and the index moves past
them. -/
def Obligations.UnseededNextDraws : Prop :=
  ∀ s : State, seeded s = false → ∃ t, exec .next s = .next t ∧
    t.completions = s.completions ++ [⟨0b010#3, .output (Config.draw64 s.drawIx)⟩] ∧
    (∀ (i : Nat) (h : i < 24), t.keys[i] = Config.draw32 (s.drawIx + 1 + i)) ∧
    t.counter = Config.draw64 (s.drawIx + 25) ∧ t.drawIx = s.drawIx + 26

/-- R80: GET_STATE completes with the image of the keys and the counter and changes no register; with the rule's example
image. -/
def Obligations.GetStateRespondsImage : Prop :=
  (∀ s : State, ∃ t, exec .getState s = .next t ∧
    t.completions = s.completions ++ [⟨0b011#3, .image (imageOf s.keys s.counter)⟩] ∧
    t.keys = s.keys ∧ t.counter = s.counter ∧ t.status = s.status ∧
    t.accepted = s.accepted ∧ t.rst = s.rst ∧ t.drawIx = s.drawIx) ∧
  (imageOf (keySchedule 1) 1).extractLsb' 0 32 = 0xC2A238F1#32 ∧
  (imageOf (keySchedule 1) 1).extractLsb' 768 64 = 1#64

/-- R81: SET_STATE completes, loads every key and the counter from the image, sets SEEDED, and changes nothing else; with
the output of the rule's example. -/
def Obligations.SetStateLoadsImage : Prop :=
  (∀ (img : Image) (s : State), ∃ t, exec (.setState img) s = .next t ∧
    (∀ (i : Nat) (h : i < 24), t.keys[i] = img.extractLsb' (32 * i) 32) ∧
    t.counter = img.extractLsb' 768 64 ∧ seeded t = true ∧
    unseededUse t = unseededUse s ∧ badcmd t = badcmd s ∧ (∀ j, 0 < j → t.status.getLsbD j = s.status.getLsbD j) ∧
    t.completions = s.completions ++ [⟨0b100#3, .none⟩] ∧
    t.accepted = s.accepted ∧ t.rst = s.rst ∧ t.drawIx = s.drawIx) ∧
  (∀ s : State, ∃ t,
    runCommands [encode (.setState (imageOf (keySchedule 1) 0xFFFF_FFFF_FFFF_FFFF#64)), encode .next] s = .next t ∧
    outputsOf (observe s t).responses = [0xD115_F3DD_3EB3_3040#64] ∧ t.counter = 0)

/-- R83: NOP completes and changes no register; with the rule's example. -/
def Obligations.NopChangesNothing : Prop :=
  (∀ s : State, ∃ t, exec .nop s = .next t ∧ t.completions = s.completions ++ [⟨0b000#3, .none⟩] ∧
    t.keys = s.keys ∧ t.counter = s.counter ∧ t.status = s.status ∧
    t.accepted = s.accepted ∧ t.rst = s.rst ∧ t.drawIx = s.drawIx) ∧
  ∀ s : State, ∃ t, runCommands [encode (.seed 1#64), encode .nop, encode .next] s = .next t ∧
    outputsOf (observe s t).responses = [0x0364_C20C_5A83_DADB#64]

/-- R84: each reserved opcode completes, sets BADCMD and changes nothing else; with the rule's example. -/
def Obligations.ReservedMarksBadcmd : Prop :=
  (∀ (i : Instr) (op : Opcode) (s : State),
    (i = .reserved5 ∧ op = 0b101#3) ∨ (i = .reserved6 ∧ op = 0b110#3) ∨ (i = .reserved7 ∧ op = 0b111#3) →
    ∃ t, exec i s = .next t ∧ t.completions = s.completions ++ [⟨op, .none⟩] ∧
      badcmd t = true ∧ seeded t = seeded s ∧ unseededUse t = unseededUse s ∧
      (∀ j, j ≠ 2 → t.status.getLsbD j = s.status.getLsbD j) ∧
      t.keys = s.keys ∧ t.counter = s.counter ∧
      t.accepted = s.accepted ∧ t.rst = s.rst ∧ t.drawIx = s.drawIx) ∧
  ∀ n : Nat, ∃ t, runCommands [encode (.seed 1#64), encode .reserved7, encode .next] (State.powerUp n) = .next t ∧
    outputsOf (observe (State.powerUp n) t).responses = [0x0364_C20C_5A83_DADB#64] ∧ statusOut t = 0b0000_0101#8

-- The state image (42_state_access.md, 20_memory.md)

/-- R78: where each key and the counter stand in the image. -/
def Obligations.ImageFieldPositions : Prop :=
  ∀ (K : Keys) (c : U64),
    (∀ (i : Nat) (h : i < 24), (imageOf K c).extractLsb' (32 * i) 32 = K[i]) ∧
    (imageOf K c).extractLsb' 768 64 = c

/-- `image_of` and `load_image` are mutually inverse (R79, which the spec marks as derived from R78). -/
def Obligations.ImageRoundTrip : Prop :=
  (∀ (K : Keys) (c : U64), imageKeys (imageOf K c) = K ∧ imageCounter (imageOf K c) = c) ∧
  ∀ v : Image, imageOf (imageKeys v) (imageCounter v) = v

/-- R32: the 104-byte little-endian serialisation: byte `j` is bits `8j+7 : 8j`, key `i` stands at bytes 4i to 4i+3 and the
counter at bytes 96 to 103, least significant byte first; and the bytes give the image back. -/
def Obligations.ImageBytesLittleEndian : Prop :=
  (∀ v : Image, (imageBytes v).length = 104 ∧
    (∀ j, j < 104 → (imageBytes v)[j]? = some (v.extractLsb' (8 * j) 8)) ∧ imageOfBytes (imageBytes v) = some v) ∧
  (∀ (K : Keys) (c : U64),
    (∀ (i : Nat) (h : i < 24) (b : Nat), b < 4 →
      (imageBytes (imageOf K c))[4 * i + b]? = some (K[i].extractLsb' (8 * b) 8)) ∧
    ∀ b, b < 8 → (imageBytes (imageOf K c))[96 + b]? = some (c.extractLsb' (8 * b) 8)) ∧
  ∀ bs : List Byte, bs.length = 104 → ∃ v, imageOfBytes bs = some v ∧ imageBytes v = bs

/-- GET_STATE followed at once by SET_STATE of the image it returned leaves keys and counter; on a seeded engine it
leaves STATUS, and every later run is observed the same as without the pair; on an unseeded one it sets SEEDED (R82, which the spec marks as derived). -/
def Obligations.SaveRestoreIsNoOp : Prop :=
  ∀ s : State, ∃ t, runCommands [encode .getState, encode (.setState (imageOf s.keys s.counter))] s = .next t ∧
    t.completions = s.completions ++ [⟨0b011#3, .image (imageOf s.keys s.counter)⟩, ⟨0b100#3, .none⟩] ∧
    t.keys = s.keys ∧ t.counter = s.counter ∧
    (seeded s = true → t.status = s.status ∧ ∀ cs : List Cmd, ∃ u u', runCommands cs s = .next u ∧
      runCommands cs t = .next u' ∧ observe s u = observe t u') ∧
    (seeded s = false → seeded t = true ∧ unseededUse t = unseededUse s ∧ badcmd t = badcmd s)

-- Steps, reset and ports

/-- A step runs the decoded command: with no reset asked for, the oldest accepted command is decoded and executed, and
taken from the list of those pending. `withFetchWord` puts a command there (log 8). -/
def Obligations.StepRunsDecodedCommand : Prop :=
  (∀ (s : State) (c : Cmd) (rest : List Cmd), s.rst = false → s.accepted = c :: rest →
    step s = exec (decode c) { s with accepted := rest }) ∧
  ∀ (s : State) (nbits w : Nat) (i : Instr), decodeTableWord nbits w = some i →
    step (s.withFetchWord nbits w) = exec i { s with rst := false }

/-- The engine does work only when a command is accepted (R90): with no command pending and no reset asked for, a step
changes nothing. -/
def Obligations.IdleStepChangesNothing : Prop :=
  ∀ s : State, s.rst = false → s.accepted = [] → step s = .next s

/-- The reset transition and power-up leave STATUS at 0, every field of it (R99; keys and counter are draws: the next
statement). -/
def Obligations.ResetClearsStatus : Prop :=
  (∀ s : State, s.rst = true → ∃ t, step s = .next t ∧
    seeded t = false ∧ unseededUse t = false ∧ badcmd t = false ∧ statusOut t = 0#8) ∧
  ∀ n : Nat, seeded (State.powerUp n) = false ∧ unseededUse (State.powerUp n) = false ∧
    badcmd (State.powerUp n) = false ∧ statusOut (State.powerUp n) = 0#8

/-- The draws of a reset and of power-up, in the model's form of R12 (DESIGN CHOICE, logs 1 and 2): every key and the
counter are each a draw with an index of its own, and the index moves past them. -/
def Obligations.ResetDrawsKeysAndCounter : Prop :=
  (∀ s : State, s.rst = true → ∃ t, step s = .next t ∧
    (∀ (i : Nat) (h : i < 24), t.keys[i] = Config.draw32 (s.drawIx + i)) ∧
    t.counter = Config.draw64 (s.drawIx + 24) ∧ t.drawIx = s.drawIx + 25) ∧
  ∀ n : Nat, (∀ (i : Nat) (h : i < 24), (State.powerUp n).keys[i] = Config.draw32 (n + i)) ∧
    (State.powerUp n).counter = Config.draw64 (n + 24) ∧ (State.powerUp n).drawIx = n + 25

/-- R100: the reset abandons every pending command; no completion is produced for it and no effect of it is left, for the
result is the same whatever was pending; and the engine then accepts commands again, and executes the next one. -/
def Obligations.ResetAbandonsPending : Prop :=
  ∀ s : State, s.rst = true → ∃ t, step s = .next t ∧ t.accepted = [] ∧
    t.completions.Sublist s.completions ∧ cmdReady t = true ∧
    (∀ pending : List Cmd, step { s with accepted := pending } = .next t) ∧
    ∀ c : Cmd, step (acceptCommand c t) = exec (decode c) t

/-- The model's choices at a reset: the completions presented before it stay until the host takes them (DEDUCED, log 5),
and one step serves the request (DESIGN CHOICE, log 4). -/
def Obligations.ResetKeepsPresentedCompletions : Prop :=
  ∀ s : State, s.rst = true → ∃ t, step s = .next t ∧ t.completions = s.completions ∧ t.rst = false

/-- A command accepted (R47, R105) is captured whole behind those pending, and nothing else changes; where the engine is not
ready nothing happens. That it is not ready exactly while a reset is asked for is the model's reading (log 3). -/
def Obligations.AcceptCapturesCommand : Prop :=
  ∀ (c : Cmd) (s : State),
    (s.rst = false → acceptCommand c s = { s with accepted := s.accepted ++ [c] }) ∧
    (s.rst = true → acceptCommand c s = s)

/-- The port presents (R40, R47) the oldest completion, with its data for a NEXT and its image for a GET_STATE only; taking
it changes nothing else and presents the next one. -/
def Obligations.CompletionsTakenInOrder : Prop :=
  ∀ (s : State) (c : Completion) (rest : List Completion), s.completions = c :: rest →
    rspValid s = true ∧ rspOp s = some c.op ∧
    (∀ v, rspData s = some v ↔ c.response = .output v) ∧ (∀ v, rspImage s = some v ↔ c.response = .image v) ∧
    takeCompletion s = { s with completions := rest }

-- Whole-machine rules

/-- R85: no command faults or is refused: every step answers a next state, and every command completes, with exactly one
completion, whose `rsp_op` is its opcode. -/
def Obligations.EveryCommandCompletes : Prop :=
  (∀ s : State, ∃ t, step s = .next t) ∧
  ∀ (i : Instr) (s : State), ∃ t c, exec i s = .next t ∧ t.completions = s.completions ++ [c] ∧ c.op = opcodeOf i

/-- R40: over a run the completions come in acceptance order, one for each command: the command at any place in the run has
the completion at that place, the one its own execution adds, with its opcode; a NEXT's carries the output of that NEXT, a GET_STATE's the image at that
place in the order. -/
def Obligations.RunCompletesInOrder : Prop :=
  ∀ (before : List Cmd) (c : Cmd) (later : List Cmd) (s : State), ∃ u t x,
    runCommands before s = .next u ∧ runCommands (before ++ c :: later) s = .next t ∧
    (observe s t).responses.length = (before ++ c :: later).length ∧
    (observe s t).responses[before.length]? = some x ∧ x.op = c.op ∧
    (∃ v, exec (decode c) u = .next v ∧ v.completions = u.completions ++ [x]) ∧
    (decode c = .getState → x.response = .image (imageOf u.keys u.counter)) ∧
    (decode c = .next → seeded u = true → x.response = .output (feistel u.keys u.counter))

/-- R39: stepping through the pending commands gives the sequential run of them. -/
def Obligations.StepsRefineSequentialRun : Prop :=
  ∀ s : State, s.rst = false → ∃ t, runCommands s.accepted { s with accepted := [] } = .next t ∧
    Sys2Proof.core.run s.accepted.length s = .next t

/-- R86: which command sets which mark, and when; a mark once set stays over every command; reset clears both. The clause
that no command sets both is what the spec marks as derived (R87). -/
def Obligations.MarksSetExactlyWhen : Prop :=
  (∀ (i : Instr) (s t : State), exec i s = .next t →
    unseededUse t = (unseededUse s || (isNext i && !seeded s)) ∧
    badcmd t = (badcmd s || isReserved i) ∧
    ¬((unseededUse s = false ∧ unseededUse t = true) ∧ (badcmd s = false ∧ badcmd t = true))) ∧
  ∀ s t : State, s.rst = true → step s = .next t → unseededUse t = false ∧ badcmd t = false

/-- R20: a reset leaves SEEDED 0, and after the commands since then it is 1 exactly where it was 1 before them or one of
them is a SEED or SET_STATE; and a NEXT then computes its output from the keys and the counter. -/
def Obligations.SeededRecordsLoads : Prop :=
  (∀ s t : State, s.rst = true → step s = .next t → seeded t = false) ∧
  (∀ (cs : List Cmd) (s t : State), runCommands cs s = .next t →
    seeded t = (seeded s || cs.any (fun c => loadsState (decode c)))) ∧
  ∀ (cs : List Cmd) (s t : State), runCommands cs s = .next t → cs.any (fun c => loadsState (decode c)) = true →
    ∃ u, exec .next t = .next u ∧
      u.completions = t.completions ++ [⟨0b010#3, .output (feistel t.keys t.counter)⟩]

/-- A STATUS bit that is 1 (R19) stays 1 over every step but a reset, and a reset clears them all. -/
def Obligations.StatusBitsClearedByResetOnly : Prop :=
  ∀ s t : State, step s = .next t →
    (s.rst = false → ∀ j, s.status.getLsbD j = true → t.status.getLsbD j = true) ∧ (s.rst = true → t.status = 0#8)

/-- R23: the status output reads 0 in bits 7:3, whatever is stored, and no command changes them. -/
def Obligations.StatusHardwiredBitsReadZero : Prop :=
  (∀ s : State, (statusOut s).extractLsb' 3 5 = 0#5) ∧
  ∀ (i : Instr) (s t : State), exec i s = .next t → ∀ j, 3 ≤ j → t.status.getLsbD j = s.status.getLsbD j

/-- The stored hardwired bits of STATUS stay 0 over every step, from every state where they are 0 (R19, R23; that they are
stored at all is log 9). -/
def Obligations.StepKeepsHardwiredBits : Prop :=
  ∀ s t : State, reservedClear s = true → step s = .next t → reservedClear t = true

/-- The hardwired bits of STATUS are 0 after power-up and at `State.reset`, and there STATUS is what the status output
shows. -/
def Obligations.ResetHasHardwiredBits : Prop :=
  reservedClear State.reset = true ∧ ∀ n : Nat, reservedClear (State.powerUp n) = true ∧
    statusOut (State.powerUp n) = (State.powerUp n).status

/-- Which commands write the keys and the counter (the writers of R15 and R18). -/
def Obligations.WritersOfKeysAndCounter : Prop :=
  ∀ (i : Instr) (s t : State), exec i s = .next t →
    (t.keys ≠ s.keys → (∃ v, i = .seed v) ∨ (∃ v, i = .setState v) ∨ (i = .next ∧ seeded s = false)) ∧
    (t.counter ≠ s.counter → (∃ v, i = .seed v) ∨ (∃ v, i = .setState v) ∨ i = .next)

/-- A mark changes nothing that comes after it (R89: "later commands execute normally"): two states that differ only in
UNSEEDED_USE and BADCMD give the same keys, counter, completions and SEEDED over any run. -/
def Obligations.MarksDoNotDisturbLaterCommands : Prop :=
  ∀ (cs : List Cmd) (s s' : State), s' = { s with status := s'.status } → seeded s' = seeded s →
    ∃ t t', runCommands cs s = .next t ∧ runCommands cs s' = .next t' ∧
      t'.keys = t.keys ∧ t'.counter = t.counter ∧ t'.completions = t.completions ∧ seeded t' = seeded t ∧
      (unseededUse s' = true → unseededUse t' = true) ∧ (badcmd s' = true → badcmd t' = true)

/-- Which commands are idempotent (R37, which the spec marks as derived), and that NEXT on a seeded engine is not: two in a row
respond for two counters (R37), so with two different outputs, because the pass is a bijection (R73, and as R77 says of a
stream). On an unseeded engine the outputs are draws (O17, O18), and nothing is said of them here. -/
def Obligations.IdempotenceOfCommands : Prop :=
  (∀ (i : Instr) (s : State), i = .nop ∨ i = .getState → ∃ t u c, exec i s = .next t ∧ exec i t = .next u ∧
    t = { s with completions := s.completions ++ [c] } ∧ u = { t with completions := t.completions ++ [c] }) ∧
  (∀ (i : Instr) (s : State), (∃ v, i = .seed v) ∨ (∃ v, i = .setState v) →
    ∃ t u, exec i s = .next t ∧ exec i t = .next u ∧ u = { t with completions := u.completions }) ∧
  ∀ s : State, seeded s = true → ∃ t u, exec .next s = .next t ∧ exec .next t = .next u ∧
    t.counter ≠ s.counter ∧
    u.completions = s.completions ++ [⟨0b010#3, .output (feistel s.keys s.counter)⟩,
      ⟨0b010#3, .output (feistel s.keys (ctrInc s.counter))⟩] ∧
    feistel s.keys s.counter ≠ feistel s.keys (ctrInc s.counter)

/-- After a SEED and commands of which none is a SEED or SET_STATE, the counter is the number of NEXT commands
modulo 2^64 (R76, which the spec marks as derived). -/
def Obligations.CounterCountsNexts : Prop :=
  ∀ (v : U64) (cs : List Cmd) (s : State), (∀ c ∈ cs, loadsState (decode c) = false) →
    ∃ t, runCommands (encode (.seed v) :: cs) s = .next t ∧ t.counter.toNat = countNext cs % 2 ^ 64

/-- After `SEED v`, from whatever state, the outputs are those of the pass over the counters 0, 1, 2, ...; that stream
has period exactly 2^64 and its outputs within one period are pairwise distinct
(R77, which the spec marks as derived). -/
def Obligations.StreamOfSeed : Prop :=
  (∀ (v : U64) (cs : List Cmd) (s : State), (∀ c ∈ cs, loadsState (decode c) = false) →
    ∃ t, runCommands (encode (.seed v) :: cs) s = .next t ∧
      outputsOf (observe s t).responses =
        (List.range (countNext cs)).map (fun j => feistel (keySchedule v) (BitVec.ofNat 64 j))) ∧
  ∀ v : U64,
    (∀ p : Nat, (∀ j : Nat, feistel (keySchedule v) (BitVec.ofNat 64 (j + p)) =
      feistel (keySchedule v) (BitVec.ofNat 64 j)) ↔ 2 ^ 64 ∣ p) ∧
    ∀ i j : Nat, i < 2 ^ 64 → j < 2 ^ 64 → i ≠ j →
      feistel (keySchedule v) (BitVec.ofNat 64 i) ≠ feistel (keySchedule v) (BitVec.ofNat 64 j)

/-- Draws do not reach a run without an unseeded NEXT (R12, R21, R99): two unseeded engines, whatever keys, counter and
draws they hold, given the same commands, respond the same outputs and end with the same STATUS, if the run ends with
UNSEEDED_USE = 0. -/
def Obligations.CleanRunsIgnoreDraws : Prop :=
  ∀ (cs : List Cmd) (s s' t t' : State), seeded s = false → s'.status = s.status →
    runCommands cs s = .next t → runCommands cs s' = .next t' → unseededUse t = false →
    outputsOf (observe s' t').responses = outputsOf (observe s t).responses ∧ t'.status = t.status ∧
      (seeded t = true → t'.keys = t.keys ∧ t'.counter = t.counter)

/-- The draw index only grows, so no step draws a value twice (R12 "Two draws are independent of each other"; the index is
the model's, log 1). -/
def Obligations.DrawIndexNeverFalls : Prop :=
  ∀ s t : State, step s = .next t → s.drawIx ≤ t.drawIx ∧
    (t.drawIx = s.drawIx ∨ s.rst = true ∨ (seeded s = false ∧ ∃ c rest, s.accepted = c :: rest ∧ decode c = .next))

/-- `NEXT.GLOBAL -> n` (R58) waits for what is pending, seeds with 1 where SEEDED is 0, and binds the output of a NEXT: on an
unseeded engine the output that `SEED 1; NEXT` gives, on a seeded one the stream's next. That the end state has both commands
completed is the model's choice (log 13): R58 has no wait after its NEXT, and the model's host waits for a response it binds.
The form without a name, and a reset asked for, are in UnnamedLineIssuesItsCommands and NamedLineBindsItsOwnResponse. -/
def Obligations.NextGlobalSeedsWithOne : Prop :=
  ∀ (n : HostName) (env : HostEnv) (s u : State), s.rst = false →
    runCommands s.accepted { s with accepted := [] } = .next u →
    (seeded u = false → ∃ t, runCommands [encode (.seed 1#64), encode .next] u = .next t ∧
      followLine (.nextGlobal (some n)) env s =
        some (.next ((n, .output (feistel (keySchedule 1) 0)) :: env, t))) ∧
    (seeded u = true → ∃ t, runCommands [encode .next] u = .next t ∧
      followLine (.nextGlobal (some n)) env s =
        some (.next ((n, .output (feistel u.keys u.counter)) :: env, t)))

/-- R41: a step of one instance leaves every other as it was, its own result depends on it alone, and steps of two
instances commute. -/
def Obligations.InstancesShareNothing : Prop :=
  ∀ (p : List State) (i : Nat), ∃ q, platformStep i p = .next q ∧ q.length = p.length ∧
    (∀ j, j ≠ i → q[j]? = p[j]?) ∧
    (∀ s, p[i]? = some s → ∃ t, step s = .next t ∧ q[i]? = some t) ∧
    ∀ j, j ≠ i → ∃ q' r, platformStep j p = .next q' ∧ platformStep j q = .next r ∧ platformStep i q' = .next r

/-- A line with a name binds its own command's response (R56), whatever is pending, whatever completions are untaken, and also
where a reset is asked for: then the reset is served first and the command executes after it. `settle s` is the state in which
what was issued before has completed or was abandoned. That the host holds the command until it is accepted (log 16), and
waits for the response before it goes on (log 13), are the model's choices. -/
def Obligations.NamedLineBindsItsOwnResponse : Prop :=
  ∀ (n : HostName) (env : HostEnv) (s u : State), settle s = .next u →
    (∃ t v, exec .next u = .next t ∧ t.completions = u.completions ++ [⟨0b010#3, .output v⟩] ∧
      followLine (.next (some n)) env s = some (.next ((n, .output v) :: env, t))) ∧
    (∃ t, exec .getState u = .next t ∧
      t.completions = u.completions ++ [⟨0b011#3, .image (imageOf u.keys u.counter)⟩] ∧
      followLine (.getState (some n)) env s = some (.next ((n, .image (imageOf u.keys u.counter)) :: env, t))) ∧
    (s.rst = true → ∃ t, runCommands [encode (.seed 1#64), encode .next] u = .next t ∧
      followLine (.nextGlobal (some n)) env s =
        some (.next ((n, .output (feistel (keySchedule 1) 0)) :: env, t)))

/-- A line without a name issues its commands, in order, and goes on without waiting for them (R103), none of them lost: where
a reset is asked for, the host holds the first until the step that serves the reset is done (the model's choice, log 16).
`NEXT.GLOBAL` alone waits first, for its read of `status` (R58, R104), and issues a `SEED 1` before its NEXT exactly where
SEEDED is 0. -/
def Obligations.UnnamedLineIssuesItsCommands : Prop :=
  ∀ (env : HostEnv) (s : State),
    (∀ (l : Line) (cs : List Cmd), lineBinds l = none → lineWaits l = false →
      assembleLine env (seeded s) l = some cs →
      (s.rst = false → followLine l env s = some (.next (env, { s with accepted := s.accepted ++ cs }))) ∧
      (s.rst = true → cs = [] → followLine l env s = some (.next (env, s))) ∧
      (s.rst = true → cs ≠ [] → ∃ u, step s = .next u ∧ u.rst = false ∧
        followLine l env s = some (.next (env, { u with accepted := cs })))) ∧
    ∀ u : State, settle s = .next u →
      (seeded u = false → followLine (.nextGlobal none) env s =
        some (.next (env, { u with accepted := [encode (.seed 1#64), encode .next] }))) ∧
      (seeded u = true → followLine (.nextGlobal none) env s =
        some (.next (env, { u with accepted := [encode .next] })))
end

