-- ==== Sys2Proof/Laws/Bits.lean ====
section
/-! SUPPORT. The helpers of Machine/Bits.lean: what a key file made from a function holds, and where the words of a
concatenation stand. -/

namespace Sys2Proof.Laws

open Sys2Proof Sys2Proof.Machine

@[simp] theorem keysOf_getElem (f : Nat → U32) (i : Nat) (h : i < 24) : (keysOf f)[i] = f i := by
  simp [keysOf]

theorem keysOf_toList (f : Nat → U32) : (keysOf f).toList = (List.range 24).map f := rfl

/-- A key file is determined by its 24 entries. -/
theorem keys_ext {K L : Keys} (h : ∀ i (hi : i < 24), K[i] = L[i]) : K = L := Vector.ext h

theorem drawKeys_getElem (n i : Nat) (h : i < 24) : (drawKeys n)[i] = Config.draw32 (n + i) :=
  keysOf_getElem _ i h

@[simp] theorem rotl_zero {w : Nat} (x : BitVec w) : rotl x 0 = x := if_pos rfl

theorem rotl_of_pos {w : Nat} (x : BitVec w) {n : Nat} (h : 0 < n) :
    rotl x n = (x <<< n) ||| (x >>> (w - n)) := if_neg (Nat.ne_of_gt h)

@[simp] theorem concatWords_nil {w : Nat} : concatWords ([] : List (BitVec w)) = 0 := rfl

@[simp] theorem concatWords_cons {w : Nat} (k : BitVec w) (ks : List (BitVec w)) :
    concatWords (k :: ks) = k.toNat + 2 ^ w * concatWords ks := rfl

/-- A concatenation of `n` words of `w` bits has `w * n` bits. -/
theorem concatWords_lt {w : Nat} (l : List (BitVec w)) : concatWords l < 2 ^ (w * l.length) := by
  induction l with
  | nil => simp
  | cons k ks ih =>
    have hk := k.isLt
    calc k.toNat + 2 ^ w * concatWords ks < 2 ^ w + 2 ^ w * concatWords ks := by omega
      _ = 2 ^ w * (concatWords ks + 1) := by ring
      _ ≤ 2 ^ w * 2 ^ (w * ks.length) := Nat.mul_le_mul_left _ ih
      _ = 2 ^ (w * (k :: ks).length) := by rw [List.length_cons, ← Nat.pow_add]; congr 1; ring

/-- Word `i` of a concatenation stands at bits `w * i + w - 1 : w * i` (00_scope.md R6). -/
theorem concatWords_word {w : Nat} (l : List (BitVec w)) (i : Nat) (h : i < l.length) :
    concatWords l / 2 ^ (w * i) % 2 ^ w = l[i].toNat := by
  induction l generalizing i with
  | nil => cases h
  | cons k ks ih =>
    cases i with
    | zero => simp [Nat.add_mul_mod_self_left, Nat.mod_eq_of_lt k.isLt]
    | succ j =>
      have hj : j < ks.length := by simpa using h
      have hp : 0 < 2 ^ w := Nat.two_pow_pos w
      have hdiv : (k.toNat + 2 ^ w * concatWords ks) / 2 ^ w = concatWords ks := by
        rw [Nat.add_mul_div_left _ _ hp, Nat.div_eq_of_lt k.isLt, Nat.zero_add]
      have hpow : 2 ^ (w * (j + 1)) = 2 ^ w * 2 ^ (w * j) := by rw [← Nat.pow_add]; congr 1; ring
      simp only [concatWords_cons, List.getElem_cons_succ]
      rw [hpow, ← Nat.div_div_eq_div_mul, hdiv]
      exact ih j hj

/-- Cutting a number into `m` words of `w` bits and putting them together again gives its low `w * m` bits. -/
theorem concatWords_split (v w m : Nat) :
    concatWords ((List.range m).map (fun j => BitVec.ofNat w (v / 2 ^ (w * j)))) = v % 2 ^ (w * m) := by
  induction m generalizing v with
  | zero => simp [Nat.mod_one]
  | succ m ih =>
    have hshift : (fun j => BitVec.ofNat w (v / 2 ^ (w * j))) ∘ Nat.succ =
        fun j => BitVec.ofNat w (v / 2 ^ w / 2 ^ (w * j)) := by
      funext j
      simp only [Function.comp]
      rw [Nat.div_div_eq_div_mul, ← Nat.pow_add, Nat.mul_succ, Nat.add_comm w]
    rw [List.range_succ_eq_map, List.map_cons, concatWords_cons, List.map_map, hshift, ih, Nat.mul_succ,
      Nat.add_comm (w * m), Nat.pow_add, Nat.mod_mul, BitVec.toNat_ofNat]
    simp

/-- `{b, a}` with `a` of `m` bits and `b` of `n` bits has `m + n` bits. -/
theorem concat_lt {a b m n : Nat} (ha : a < 2 ^ m) (hb : b < 2 ^ n) : a + 2 ^ m * b < 2 ^ (m + n) := by
  calc a + 2 ^ m * b < 2 ^ m + 2 ^ m * b := by omega
    _ = 2 ^ m * (b + 1) := by ring
    _ ≤ 2 ^ m * 2 ^ n := Nat.mul_le_mul_left _ hb
    _ = 2 ^ (m + n) := (Nat.pow_add 2 m n).symm

/-- The high `n` bits of a number of `m + n` bits. -/
theorem div_two_pow_lt {v m n : Nat} (h : v < 2 ^ (m + n)) : v / 2 ^ m < 2 ^ n := by
  rw [Nat.div_lt_iff_lt_mul (Nat.two_pow_pos m), ← Nat.pow_add, Nat.add_comm n m]
  exact h

/-- Consecutive fields of a value, put together again, are its low bits. -/
theorem concatWords_fields {n : Nat} (v : BitVec n) (w m : Nat) :
    concatWords ((List.range m).map (fun j => v.extractLsb' (w * j) w)) = v.toNat % 2 ^ (w * m) := by
  refine Eq.trans (congrArg concatWords (List.map_congr_left fun j _ => ?_)) (concatWords_split v.toNat w m)
  apply BitVec.eq_of_toNat_eq
  rw [BitVec.extractLsb'_toNat, Nat.shiftRight_eq_div_pow, BitVec.toNat_ofNat]

/-- The 24 keys of an image take its low 768 bits. -/
theorem concatKeys_lt (K : Keys) : concatWords K.toList < 2 ^ 768 := by
  have h := concatWords_lt K.toList
  rwa [Vector.length_toList] at h

/-- The image as a number: the keys from bit 0 on, the counter from bit 768 on (R78). -/
theorem imageOf_toNat (K : Keys) (c : U64) :
    (imageOf K c).toNat = concatWords K.toList + 2 ^ 768 * c.toNat := by
  have h := concat_lt (concatKeys_lt K) c.isLt
  rw [show 768 + 64 = 832 from rfl] at h
  rw [imageOf, BitVec.toNat_ofNat, Nat.mod_eq_of_lt h]

end Sys2Proof.Laws
end

