-- ==== Sys2Proof/Laws/State.lean ====
section
/-! SUPPORT. One lemma per field per update, so that no proof unfolds a record update: what each named operation over the
state leaves in each field. -/

namespace Sys2Proof.Laws

open Sys2Proof Sys2Proof.Machine

@[simp] theorem setSeeded_keys (s : State) : (setSeeded s).keys = s.keys := rfl
@[simp] theorem setSeeded_counter (s : State) : (setSeeded s).counter = s.counter := rfl
@[simp] theorem setSeeded_status (s : State) : (setSeeded s).status = s.status ||| 0b001#8 := rfl
@[simp] theorem setSeeded_accepted (s : State) : (setSeeded s).accepted = s.accepted := rfl
@[simp] theorem setSeeded_completions (s : State) : (setSeeded s).completions = s.completions := rfl
@[simp] theorem setSeeded_rst (s : State) : (setSeeded s).rst = s.rst := rfl
@[simp] theorem setSeeded_drawIx (s : State) : (setSeeded s).drawIx = s.drawIx := rfl

@[simp] theorem markUnseededUse_keys (s : State) : (markUnseededUse s).keys = s.keys := rfl
@[simp] theorem markUnseededUse_counter (s : State) : (markUnseededUse s).counter = s.counter := rfl
@[simp] theorem markUnseededUse_status (s : State) : (markUnseededUse s).status = s.status ||| 0b010#8 := rfl
@[simp] theorem markUnseededUse_accepted (s : State) : (markUnseededUse s).accepted = s.accepted := rfl
@[simp] theorem markUnseededUse_completions (s : State) : (markUnseededUse s).completions = s.completions := rfl
@[simp] theorem markUnseededUse_rst (s : State) : (markUnseededUse s).rst = s.rst := rfl
@[simp] theorem markUnseededUse_drawIx (s : State) : (markUnseededUse s).drawIx = s.drawIx := rfl

@[simp] theorem markBadcmd_keys (s : State) : (markBadcmd s).keys = s.keys := rfl
@[simp] theorem markBadcmd_counter (s : State) : (markBadcmd s).counter = s.counter := rfl
@[simp] theorem markBadcmd_status (s : State) : (markBadcmd s).status = s.status ||| 0b100#8 := rfl
@[simp] theorem markBadcmd_accepted (s : State) : (markBadcmd s).accepted = s.accepted := rfl
@[simp] theorem markBadcmd_completions (s : State) : (markBadcmd s).completions = s.completions := rfl
@[simp] theorem markBadcmd_rst (s : State) : (markBadcmd s).rst = s.rst := rfl
@[simp] theorem markBadcmd_drawIx (s : State) : (markBadcmd s).drawIx = s.drawIx := rfl

@[simp] theorem clearStatus_keys (s : State) : (clearStatus s).keys = s.keys := rfl
@[simp] theorem clearStatus_counter (s : State) : (clearStatus s).counter = s.counter := rfl
@[simp] theorem clearStatus_status (s : State) : (clearStatus s).status = 0#8 := rfl
@[simp] theorem clearStatus_accepted (s : State) : (clearStatus s).accepted = s.accepted := rfl
@[simp] theorem clearStatus_completions (s : State) : (clearStatus s).completions = s.completions := rfl
@[simp] theorem clearStatus_rst (s : State) : (clearStatus s).rst = s.rst := rfl
@[simp] theorem clearStatus_drawIx (s : State) : (clearStatus s).drawIx = s.drawIx := rfl

@[simp] theorem writeKeys_keys (k : Keys) (s : State) : (writeKeys k s).keys = k := rfl
@[simp] theorem writeKeys_counter (k : Keys) (s : State) : (writeKeys k s).counter = s.counter := rfl
@[simp] theorem writeKeys_status (k : Keys) (s : State) : (writeKeys k s).status = s.status := rfl
@[simp] theorem writeKeys_accepted (k : Keys) (s : State) : (writeKeys k s).accepted = s.accepted := rfl
@[simp] theorem writeKeys_completions (k : Keys) (s : State) : (writeKeys k s).completions = s.completions := rfl
@[simp] theorem writeKeys_rst (k : Keys) (s : State) : (writeKeys k s).rst = s.rst := rfl
@[simp] theorem writeKeys_drawIx (k : Keys) (s : State) : (writeKeys k s).drawIx = s.drawIx := rfl

@[simp] theorem writeCounter_keys (c : U64) (s : State) : (writeCounter c s).keys = s.keys := rfl
@[simp] theorem writeCounter_counter (c : U64) (s : State) : (writeCounter c s).counter = c := rfl
@[simp] theorem writeCounter_status (c : U64) (s : State) : (writeCounter c s).status = s.status := rfl
@[simp] theorem writeCounter_accepted (c : U64) (s : State) : (writeCounter c s).accepted = s.accepted := rfl
@[simp] theorem writeCounter_completions (c : U64) (s : State) : (writeCounter c s).completions = s.completions := rfl
@[simp] theorem writeCounter_rst (c : U64) (s : State) : (writeCounter c s).rst = s.rst := rfl
@[simp] theorem writeCounter_drawIx (c : U64) (s : State) : (writeCounter c s).drawIx = s.drawIx := rfl

@[simp] theorem complete_keys (c : Completion) (s : State) : (complete c s).keys = s.keys := rfl
@[simp] theorem complete_counter (c : Completion) (s : State) : (complete c s).counter = s.counter := rfl
@[simp] theorem complete_status (c : Completion) (s : State) : (complete c s).status = s.status := rfl
@[simp] theorem complete_accepted (c : Completion) (s : State) : (complete c s).accepted = s.accepted := rfl
@[simp] theorem complete_completions (c : Completion) (s : State) : (complete c s).completions = s.completions ++ [c] := rfl
@[simp] theorem complete_rst (c : Completion) (s : State) : (complete c s).rst = s.rst := rfl
@[simp] theorem complete_drawIx (c : Completion) (s : State) : (complete c s).drawIx = s.drawIx := rfl

@[simp] theorem advanceDraw_keys (s : State) : (advanceDraw s).keys = s.keys := rfl
@[simp] theorem advanceDraw_counter (s : State) : (advanceDraw s).counter = s.counter := rfl
@[simp] theorem advanceDraw_status (s : State) : (advanceDraw s).status = s.status := rfl
@[simp] theorem advanceDraw_accepted (s : State) : (advanceDraw s).accepted = s.accepted := rfl
@[simp] theorem advanceDraw_completions (s : State) : (advanceDraw s).completions = s.completions := rfl
@[simp] theorem advanceDraw_rst (s : State) : (advanceDraw s).rst = s.rst := rfl
@[simp] theorem advanceDraw_drawIx (s : State) : (advanceDraw s).drawIx = s.drawIx + 1 := rfl

@[simp] theorem drawState_keys (s : State) : (drawState s).keys = drawKeys s.drawIx := rfl
@[simp] theorem drawState_counter (s : State) : (drawState s).counter = drawCounter s.drawIx := rfl
@[simp] theorem drawState_status (s : State) : (drawState s).status = s.status := rfl
@[simp] theorem drawState_accepted (s : State) : (drawState s).accepted = s.accepted := rfl
@[simp] theorem drawState_completions (s : State) : (drawState s).completions = s.completions := rfl
@[simp] theorem drawState_rst (s : State) : (drawState s).rst = s.rst := rfl
@[simp] theorem drawState_drawIx (s : State) : (drawState s).drawIx = afterDraws s.drawIx := rfl

@[simp] theorem abandonAccepted_keys (s : State) : (abandonAccepted s).keys = s.keys := rfl
@[simp] theorem abandonAccepted_counter (s : State) : (abandonAccepted s).counter = s.counter := rfl
@[simp] theorem abandonAccepted_status (s : State) : (abandonAccepted s).status = s.status := rfl
@[simp] theorem abandonAccepted_accepted (s : State) : (abandonAccepted s).accepted = [] := rfl
@[simp] theorem abandonAccepted_completions (s : State) : (abandonAccepted s).completions = s.completions := rfl
@[simp] theorem abandonAccepted_rst (s : State) : (abandonAccepted s).rst = s.rst := rfl
@[simp] theorem abandonAccepted_drawIx (s : State) : (abandonAccepted s).drawIx = s.drawIx := rfl

@[simp] theorem releaseReset_keys (s : State) : (releaseReset s).keys = s.keys := rfl
@[simp] theorem releaseReset_counter (s : State) : (releaseReset s).counter = s.counter := rfl
@[simp] theorem releaseReset_status (s : State) : (releaseReset s).status = s.status := rfl
@[simp] theorem releaseReset_accepted (s : State) : (releaseReset s).accepted = s.accepted := rfl
@[simp] theorem releaseReset_completions (s : State) : (releaseReset s).completions = s.completions := rfl
@[simp] theorem releaseReset_rst (s : State) : (releaseReset s).rst = false := rfl
@[simp] theorem releaseReset_drawIx (s : State) : (releaseReset s).drawIx = s.drawIx := rfl

@[simp] theorem resetTransition_keys (s : State) : (resetTransition s).keys = drawKeys s.drawIx := rfl
@[simp] theorem resetTransition_counter (s : State) : (resetTransition s).counter = drawCounter s.drawIx := rfl
@[simp] theorem resetTransition_status (s : State) : (resetTransition s).status = 0#8 := rfl
@[simp] theorem resetTransition_accepted (s : State) : (resetTransition s).accepted = [] := rfl
@[simp] theorem resetTransition_completions (s : State) : (resetTransition s).completions = s.completions := rfl
@[simp] theorem resetTransition_rst (s : State) : (resetTransition s).rst = false := rfl
@[simp] theorem resetTransition_drawIx (s : State) : (resetTransition s).drawIx = afterDraws s.drawIx := rfl

@[simp] theorem requestReset_keys (s : State) : (requestReset s).keys = s.keys := rfl
@[simp] theorem requestReset_counter (s : State) : (requestReset s).counter = s.counter := rfl
@[simp] theorem requestReset_status (s : State) : (requestReset s).status = s.status := rfl
@[simp] theorem requestReset_accepted (s : State) : (requestReset s).accepted = s.accepted := rfl
@[simp] theorem requestReset_completions (s : State) : (requestReset s).completions = s.completions := rfl
@[simp] theorem requestReset_rst (s : State) : (requestReset s).rst = true := rfl
@[simp] theorem requestReset_drawIx (s : State) : (requestReset s).drawIx = s.drawIx := rfl

@[simp] theorem takeCompletion_keys (s : State) : (takeCompletion s).keys = s.keys := rfl
@[simp] theorem takeCompletion_counter (s : State) : (takeCompletion s).counter = s.counter := rfl
@[simp] theorem takeCompletion_status (s : State) : (takeCompletion s).status = s.status := rfl
@[simp] theorem takeCompletion_accepted (s : State) : (takeCompletion s).accepted = s.accepted := rfl
@[simp] theorem takeCompletion_completions (s : State) : (takeCompletion s).completions = s.completions.tail := rfl
@[simp] theorem takeCompletion_rst (s : State) : (takeCompletion s).rst = s.rst := rfl
@[simp] theorem takeCompletion_drawIx (s : State) : (takeCompletion s).drawIx = s.drawIx := rfl

@[simp] theorem powerUp_keys (n : Nat) : (State.powerUp n).keys = drawKeys n := rfl
@[simp] theorem powerUp_counter (n : Nat) : (State.powerUp n).counter = drawCounter n := rfl
@[simp] theorem powerUp_status (n : Nat) : (State.powerUp n).status = 0#8 := rfl
@[simp] theorem powerUp_accepted (n : Nat) : (State.powerUp n).accepted = [] := rfl
@[simp] theorem powerUp_completions (n : Nat) : (State.powerUp n).completions = [] := rfl
@[simp] theorem powerUp_rst (n : Nat) : (State.powerUp n).rst = false := rfl
@[simp] theorem powerUp_drawIx (n : Nat) : (State.powerUp n).drawIx = afterDraws n := rfl

@[simp] theorem withFetchWord_keys (s : State) (nbits w : Nat) :
    (s.withFetchWord nbits w).keys = s.keys := rfl
@[simp] theorem withFetchWord_counter (s : State) (nbits w : Nat) :
    (s.withFetchWord nbits w).counter = s.counter := rfl
@[simp] theorem withFetchWord_status (s : State) (nbits w : Nat) :
    (s.withFetchWord nbits w).status = s.status := rfl
@[simp] theorem withFetchWord_accepted (s : State) (nbits w : Nat) :
    (s.withFetchWord nbits w).accepted = Cmd.ofTableWord nbits w :: s.accepted := rfl
@[simp] theorem withFetchWord_completions (s : State) (nbits w : Nat) :
    (s.withFetchWord nbits w).completions = s.completions := rfl
@[simp] theorem withFetchWord_rst (s : State) (nbits w : Nat) :
    (s.withFetchWord nbits w).rst = false := rfl
@[simp] theorem withFetchWord_drawIx (s : State) (nbits w : Nat) :
    (s.withFetchWord nbits w).drawIx = s.drawIx := rfl

end Sys2Proof.Laws
end

