-- ==== Sys2Proof/Laws/Flags.lean ====
section
/-! SUPPORT. The STATUS operations: what each write does to each of the three bits (10_state.md R19 to R22), and that no
write touches the hardwired ones (R23). -/

namespace Sys2Proof.Laws

open Sys2Proof Sys2Proof.Machine

/-- Two states with the same STATUS have the same bits. -/
theorem statusBits_congr {s t : State} (h : s.status = t.status) :
    seeded s = seeded t ∧ unseededUse s = unseededUse t ∧ badcmd s = badcmd t := by
  simp [seeded, unseededUse, badcmd, h]

/-- What `status.SEEDED <- 1` does to every bit. -/
theorem setSeeded_bit (s : State) (j : Nat) :
    (setSeeded s).status.getLsbD j = (s.status.getLsbD j || decide (j = 0)) := by
  rcases j with _ | _ | _ | _ | _ | _ | _ | _ | j <;> simp [setSeeded]

/-- What `status.UNSEEDED_USE <- 1` does to every bit. -/
theorem markUnseededUse_bit (s : State) (j : Nat) :
    (markUnseededUse s).status.getLsbD j = (s.status.getLsbD j || decide (j = 1)) := by
  rcases j with _ | _ | _ | _ | _ | _ | _ | _ | j <;> simp [markUnseededUse]

/-- What `status.BADCMD <- 1` does to every bit. -/
theorem markBadcmd_bit (s : State) (j : Nat) :
    (markBadcmd s).status.getLsbD j = (s.status.getLsbD j || decide (j = 2)) := by
  rcases j with _ | _ | _ | _ | _ | _ | _ | _ | j <;> simp [markBadcmd]

/-- The status output shows bits 2:0 as stored and 0 elsewhere. -/
theorem statusOut_bit (s : State) (j : Nat) :
    (statusOut s).getLsbD j = (s.status.getLsbD j && decide (j < 3)) := by
  rcases j with _ | _ | _ | _ | _ | _ | _ | _ | j <;> simp [statusOut, statusMask]

end Sys2Proof.Laws
end

