-- ==== Sys2Proof/Laws/Exec.lean ====
section
/-! SUPPORT. Each shared operation and each meaning once: what it can do. Proofs about steps and runs cite these instead of
unfolding `exec`, `step` or `runCommands`. -/

namespace Sys2Proof.Laws

open Sys2Proof Sys2Proof.Machine

/-- The state after the command `i` (R13): `exec_eq` says that it is what `exec` answers, for every command. -/
def after (i : Instr) (s : State) : State :=
  match i with
  | .nop => nopAfter s
  | .seed v => seedAfter v s
  | .next => nextAfter s
  | .getState => getStateAfter s
  | .setState img => setStateAfter img s
  | .reserved5 => reservedAfter .reserved5 s
  | .reserved6 => reservedAfter .reserved6 s
  | .reserved7 => reservedAfter .reserved7 s

theorem exec_eq (i : Instr) (s : State) : exec i s = .next (after i s) := by cases i <;> rfl

/-- What a command responds (R50): the completion it adds carries this. -/
def responseOf (i : Instr) (s : State) : Response :=
  match i with
  | .nop => .none
  | .seed _ => .none
  | .next => .output (if seeded s then feistel s.keys s.counter else nextDraw64 s)
  | .getState => .image (imageOf s.keys s.counter)
  | .setState _ => .none
  | .reserved5 => .none
  | .reserved6 => .none
  | .reserved7 => .none

/-- The keys a command leaves (R15). -/
def keysAfter (i : Instr) (s : State) : Keys :=
  match i with
  | .nop => s.keys
  | .seed v => keySchedule v
  | .next => if seeded s then s.keys else drawKeys (s.drawIx + 1)
  | .getState => s.keys
  | .setState img => imageKeys img
  | .reserved5 => s.keys
  | .reserved6 => s.keys
  | .reserved7 => s.keys

/-- The counter a command leaves (R18). -/
def counterAfter (i : Instr) (s : State) : U64 :=
  match i with
  | .nop => s.counter
  | .seed _ => 0#64
  | .next => if seeded s then ctrInc s.counter else drawCounter (s.drawIx + 1)
  | .getState => s.counter
  | .setState img => imageCounter img
  | .reserved5 => s.counter
  | .reserved6 => s.counter
  | .reserved7 => s.counter

theorem lcgMul_toNat : lcgMul.toNat = 6364136223846793005 := by decide

theorem lcgInc_toNat : lcgInc.toNat = 1442695040888963407 := by decide

theorem keyMul_toNat : keyMul.toNat = 1498817317654829 := by decide

theorem keySchedule_toList (seed : U64) : (keySchedule seed).toList = keyList numRounds seed := rfl

@[simp] theorem seedAfter_completions (v : U64) (s : State) :
    (seedAfter v s).completions = s.completions ++ [completionOnly (.seed v)] := rfl

theorem nextAfter_of_seeded {s : State} (h : seeded s = true) : nextAfter s = nextSeeded s := if_pos h

theorem nextAfter_of_unseeded {s : State} (h : seeded s = false) : nextAfter s = nextUnseeded s :=
  if_neg (by simp [h])

/-- Every command adds one completion, with its opcode, behind the earlier ones (R40, R47). -/
theorem after_completions (i : Instr) (s : State) :
    (after i s).completions = s.completions ++ [⟨opcodeOf i, responseOf i s⟩] := by
  cases i with
  | next => cases h : seeded s <;> simp [after, nextAfter, responseOf, h, nextSeeded, nextUnseeded, dataCompletion,
      nextDraw64]
  | _ => rfl

theorem after_keys (i : Instr) (s : State) : (after i s).keys = keysAfter i s := by
  cases i with
  | next => cases h : seeded s <;> simp [after, nextAfter, keysAfter, h, nextSeeded, nextUnseeded]
  | _ => rfl

theorem after_counter (i : Instr) (s : State) : (after i s).counter = counterAfter i s := by
  cases i with
  | next => cases h : seeded s <;> simp [after, nextAfter, counterAfter, h, nextSeeded, nextUnseeded]
  | _ => rfl

/-- What every command does to every STATUS bit (R19, R86): it sets at most its own. -/
theorem after_status_bit (i : Instr) (s : State) (j : Nat) :
    (after i s).status.getLsbD j = (s.status.getLsbD j || (loadsState i && decide (j = 0)) ||
      (isNext i && !seeded s && decide (j = 1)) || (isReserved i && decide (j = 2))) := by
  cases i with
  | nop => simp [after, nopAfter, loadsState, isNext, isReserved]
  | seed v => simp [after, seedAfter, loadsState, isNext, isReserved]
  | next =>
    cases h : seeded s
    · simpa [after, nextAfter, h, nextUnseeded, loadsState, isNext, isReserved] using markUnseededUse_bit s j
    · simp [after, nextAfter, h, nextSeeded, loadsState, isNext, isReserved]
  | getState => simp [after, getStateAfter, loadsState, isNext, isReserved]
  | setState v => simp [after, setStateAfter, loadsState, isNext, isReserved]
  | reserved5 => simpa [after, reservedAfter, loadsState, isNext, isReserved] using markBadcmd_bit s j
  | reserved6 => simpa [after, reservedAfter, loadsState, isNext, isReserved] using markBadcmd_bit s j
  | reserved7 => simpa [after, reservedAfter, loadsState, isNext, isReserved] using markBadcmd_bit s j

/-- No command touches the commands pending behind it. -/
@[simp] theorem after_accepted (i : Instr) (s : State) : (after i s).accepted = s.accepted := by
  cases i with
  | next => cases h : seeded s <;> simp [after, nextAfter, h, nextSeeded, nextUnseeded]
  | _ => rfl

/-- No command touches the reset request. -/
@[simp] theorem after_rst (i : Instr) (s : State) : (after i s).rst = s.rst := by
  cases i with
  | next => cases h : seeded s <;> simp [after, nextAfter, h, nextSeeded, nextUnseeded]
  | _ => rfl

/-- Only an unseeded NEXT draws: one output, 24 keys and one counter. -/
theorem after_drawIx (i : Instr) (s : State) :
    (after i s).drawIx = if isNext i && !seeded s then s.drawIx + 26 else s.drawIx := by
  cases i with
  | next => cases h : seeded s <;> simp [after, nextAfter, h, nextSeeded, nextUnseeded, isNext, afterDraws]
  | _ => rfl

/-- `fetch` takes the oldest accepted command and changes nothing else. -/
theorem fetch_cons {s : State} {c : Cmd} {rest : List Cmd} (h : s.accepted = c :: rest) :
    fetch s = some (c, { s with accepted := rest }) := by simp [fetch, h]

theorem fetch_nil {s : State} (h : s.accepted = []) : fetch s = none := by simp [fetch, h]

/-- The reset transition's state, every field at once. -/
theorem resetTransition_eq (s : State) : resetTransition s =
    { keys := drawKeys s.drawIx, counter := drawCounter s.drawIx, status := 0#8, accepted := [],
      completions := s.completions, rst := false, drawIx := afterDraws s.drawIx } := rfl

/-- What a step can do, all of it: serve a reset (R99), do nothing (R90), or execute the oldest pending command (R39). -/
theorem step_cases {s t : State} (h : step s = .next t) :
    (s.rst = true ∧ t = resetTransition s) ∨ (s.rst = false ∧ s.accepted = [] ∧ t = s) ∨
    ∃ c rest, s.rst = false ∧ s.accepted = c :: rest ∧ t = after (decode c) { s with accepted := rest } := by
  cases hr : s.rst with
  | true => exact .inl ⟨rfl, by simpa [step, hr] using h.symm⟩
  | false =>
    cases ha : s.accepted with
    | nil => exact .inr (.inl ⟨rfl, rfl, by simpa [step, hr, fetch_nil ha] using h.symm⟩)
    | cons c rest =>
      exact .inr (.inr ⟨c, rest, rfl, rfl, by simpa [step, hr, fetch_cons ha, exec_eq] using h.symm⟩)

@[simp] theorem runCommands_nil (s : State) : runCommands [] s = .next s := rfl

@[simp] theorem runCommands_cons (c : Cmd) (cs : List Cmd) (s : State) :
    runCommands (c :: cs) s = runCommands cs (after (decode c) s) := by simp [runCommands, exec_eq]

@[simp] theorem outputsOf_nil : outputsOf [] = [] := rfl

/-- The outputs of two lists of completions, one after the other. -/
theorem outputsOf_append (a b : List Completion) : outputsOf (a ++ b) = outputsOf a ++ outputsOf b := by
  induction a with
  | nil => rfl
  | cons c cs ih => cases h : c.response <;> simp [outputsOf, h, ih]

end Sys2Proof.Laws
end

