-- ==== Sys2Proof/Laws/Listing.lean ====
section
/-! SUPPORT. What a host that follows a listing does to the engine when it issues commands. -/

namespace Sys2Proof.Laws

open Sys2Proof Sys2Proof.Machine

/-- An engine that is ready accepts the command presented. -/
theorem acceptCommand_ready {s : State} (h : s.rst = false) (c : Cmd) :
    acceptCommand c s = { s with accepted := s.accepted ++ [c] } := by simp [acceptCommand, cmdReady, h]

/-- A step where a reset is asked for is the reset transition. -/
theorem step_reset {s : State} (h : s.rst = true) : step s = .next (resetTransition s) := by simp [step, h]

/-- Presenting a command to an engine that is ready takes no step. -/
theorem presentUntilAccepted_ready {s : State} (h : s.rst = false) (c : Cmd) :
    presentUntilAccepted c s = .next { s with accepted := s.accepted ++ [c] } := by
  simp [presentUntilAccepted, cmdReady, h, acceptCommand_ready h]

/-- Presenting a command where a reset is asked for: the reset is served, and the command is the one pending. -/
theorem presentUntilAccepted_reset {s : State} (h : s.rst = true) (c : Cmd) :
    presentUntilAccepted c s = .next { resetTransition s with accepted := [c] } := by
  simp only [presentUntilAccepted, cmdReady, h, step_reset h]
  rw [acceptCommand_ready (resetTransition_rst s)]
  simp

/-- An engine that is ready accepts every command issued, in order. -/
theorem issueAll_ready (cs : List Cmd) {s : State} (h : s.rst = false) :
    issueAll cs s = .next { s with accepted := s.accepted ++ cs } := by
  induction cs generalizing s with
  | nil => simp [issueAll]
  | cons c cs ih =>
    simp only [issueAll, presentUntilAccepted_ready h]
    rw [ih (by exact h)]
    simp

/-- Commands issued where a reset is asked for are all accepted after it. -/
theorem issueAll_reset {cs : List Cmd} (hcs : cs ≠ []) {s : State} (h : s.rst = true) :
    issueAll cs s = .next { resetTransition s with accepted := cs } := by
  cases cs with
  | nil => exact absurd rfl hcs
  | cons c cs =>
    simp only [issueAll, presentUntilAccepted_reset h]
    rw [issueAll_ready cs (by simp)]
    simp

end Sys2Proof.Laws
end

