-- ==== Sys2Proof/Laws/PerInstr.lean ====
section
/-! SUPPORT. Statements for all commands, made per constructor: the command an instruction is encoded as carries the
instruction's opcode and leaves the buses it does not read at 0 (30_encoding.md R50, R56). -/

namespace Sys2Proof.Laws

open Sys2Proof

/-- The encoding of `i` carries the opcode of `i`, is canonical, and `i` is well formed. -/
def EncodesCanonically.Statement (i : Instr) : Prop :=
  (encode i).op = opcodeOf i ∧ (encode i).canonical = true ∧ i.wellFormed = true

theorem EncodesCanonically.nop : EncodesCanonically.Statement .nop := 
  ⟨rfl, by simp [encode, Cmd.canonical, Cmd.readsSeed, Cmd.readsImage], rfl⟩

theorem EncodesCanonically.seed (v : U64) : EncodesCanonically.Statement (.seed v) := 
  ⟨rfl, by simp [encode, Cmd.canonical, Cmd.readsSeed, Cmd.readsImage], rfl⟩

theorem EncodesCanonically.next : EncodesCanonically.Statement .next := 
  ⟨rfl, by simp [encode, Cmd.canonical, Cmd.readsSeed, Cmd.readsImage], rfl⟩

theorem EncodesCanonically.getState : EncodesCanonically.Statement .getState := 
  ⟨rfl, by simp [encode, Cmd.canonical, Cmd.readsSeed, Cmd.readsImage], rfl⟩

theorem EncodesCanonically.setState (img : Image) : EncodesCanonically.Statement (.setState img) :=
  ⟨rfl, by simp [encode, Cmd.canonical, Cmd.readsSeed, Cmd.readsImage], rfl⟩

theorem EncodesCanonically.reserved5 : EncodesCanonically.Statement .reserved5 := 
  ⟨rfl, by simp [encode, Cmd.canonical, Cmd.readsSeed, Cmd.readsImage], rfl⟩

theorem EncodesCanonically.reserved6 : EncodesCanonically.Statement .reserved6 := 
  ⟨rfl, by simp [encode, Cmd.canonical, Cmd.readsSeed, Cmd.readsImage], rfl⟩

theorem EncodesCanonically.reserved7 : EncodesCanonically.Statement .reserved7 := 
  ⟨rfl, by simp [encode, Cmd.canonical, Cmd.readsSeed, Cmd.readsImage], rfl⟩

end Sys2Proof.Laws
end

