-- ==== Sys2Proof/Tests/Slice0.lean ====
section
/-! SUPPORT. The model's own tests. Expected values are the spec's (95_test_vectors.md, or the rule named); each test says
which. Then, for every obligation with hypotheses, a witness that meets them, one for each clause. -/

namespace Sys2Proof.Tests

open Sys2Proof Sys2Proof.Machine Sys2Proof.Laws

/-- A small state: all keys 0, counter 0, nothing pending. -/
def plain (status : BitVec 8) : State :=
  { keys := Vector.replicate 24 0, counter := 0, status := status, accepted := [], completions := [], rst := false,
    drawIx := 0 }

/-- A field of the state a meaning answers. -/
def got {α : Type} (o : Host.Outcome State Fault Refusal) (f : State → α) : Option α :=
  match o with
  | .next t => some (f t)
  | .fault _ => none
  | .refused _ => none

-- Well-formedness: for each check an ill-formed term that it refuses (R56)

theorem test_seed_out_of_range_refused : (Line.seed (2 ^ 64)).wellFormed [] = false := by decide +kernel
theorem test_seedGlobal_out_of_range_refused : (Line.seedGlobal (2 ^ 64)).wellFormed [] = false := by decide +kernel
theorem test_unbound_image_refused : (Line.setState (.bound ['S'])).wellFormed [['T']] = false := by decide
theorem test_23_keys_refused : (ImageArg.literal (List.replicate 23 0) 0).wellFormed [] = false := by decide
theorem test_wide_key_refused :
    (ImageArg.literal (List.replicate 23 0 ++ [2 ^ 32]) 0).wellFormed [] = false := by decide +kernel
theorem test_wide_counter_refused :
    (ImageArg.literal (List.replicate 24 0) (2 ^ 64)).wellFormed [] = false := by decide +kernel
theorem test_literal_accepted :
    (ImageArg.literal (List.replicate 24 (2 ^ 32 - 1)) (2 ^ 64 - 1)).wellFormed [] = true := by decide +kernel
theorem test_next_with_seed_bus_not_canonical : Cmd.canonical ⟨0b010#3, 1, 0⟩ = false := by decide +kernel
theorem test_seed_with_image_bus_not_canonical : Cmd.canonical ⟨0b001#3, 1, 1⟩ = false := by decide +kernel

-- Decoding: each opcode written out from R50, op = cmd_op[2:0]

theorem test_decode_000 : decode ⟨0b000#3, 7, 9⟩ = .nop := rfl
theorem test_decode_001 : decode ⟨0b001#3, 0x2A#64, 9⟩ = .seed 0x2A#64 := rfl
theorem test_decode_010 : decode ⟨0b010#3, 7, 9⟩ = .next := rfl
theorem test_decode_011 : decode ⟨0b011#3, 7, 9⟩ = .getState := rfl
theorem test_decode_100 : decode ⟨0b100#3, 7, 9⟩ = .setState 9 := rfl
theorem test_decode_101 : decode ⟨0b101#3, 7, 9⟩ = .reserved5 := rfl
theorem test_decode_110 : decode ⟨0b110#3, 7, 9⟩ = .reserved6 := rfl
theorem test_decode_111 : decode ⟨0b111#3, 7, 9⟩ = .reserved7 := rfl

-- Rotate-left (V1)

theorem test_rotl_zero : rotl 0x80000001#32 0 = 0x80000001#32 := by decide
theorem test_rotl_31 : rotl 0x0000001F#32 31 = 0x8000000F#32 := by decide
theorem test_rotl64_9 : rotl 0x6C57_6FAC_43FD_007C#64 9 = 0xAEDF_5887_FA00_F8D8#64 := by decide

-- Key schedule (V2, V3, V4)

theorem test_lcgStep : lcgStep 1 = 0x6C57_6FAC_43FD_007C#64 := by decide
theorem test_keyProduct : keyProduct 0x6C57_6FAC_43FD_007C#64 = 0xC2A2_38F1_9DE0_15F8#64 := by decide
theorem test_foldHigh : foldHigh 0xC2A2_38F1_9DE0_15F8#64 = 0xC2A2_38F1_5F42_2D09#64 := by decide
theorem test_keySchedule_1 : (keySchedule 1).toList =
    [0xC2A238F1, 0xFE6C810E, 0xC575C09A, 0xE0D26C14, 0x5C6F0EB0, 0xF28530BF, 0x4157E2E7, 0x8F7E9073,
     0x1F699854, 0x8F6B0351, 0xCF79E53E, 0x03924692, 0xD64A698C, 0x520FCCE1, 0xCD5CD68B, 0x57F4310D,
     0x65C942EC, 0x97A6B410, 0x92D4D089, 0x3F4A5B4C, 0xC5CDD007, 0xB5883AA9, 0x85BFF348, 0xA4CC40EE] := by
  decide +kernel
theorem test_keySchedule_42 : (keySchedule 42)[0] = 0x65A8C41D#32 ∧ (keySchedule 42)[23] = 0x29D6BDC3#32 := by
  decide +kernel

-- Round function, pass and counter (V5, V6, V8)

theorem test_round32_wraps : round32 0xFFFFFFFF#32 0xFFFFFFFF#32 = 0xFFFFFFFD#32 := by decide
theorem test_round32_general : round32 0x12345678#32 0x9ABCDEF0#32 = 0x250369BE#32 := by decide
theorem test_round32_low_bits_only : round32 0x00000021#32 5#32 = 0x00000068#32 := by decide
theorem test_feistel_general : feistel (keySchedule 1) 0x0123_4567_89AB_CDEF#64 = 0xD6C8_6742_600D_813A#64 := by
  decide +kernel
theorem test_feistel_zero_keys : feistel (Vector.replicate 24 0) 1 = 0xA1CE_A7EA_641D_1947#64 := by decide +kernel
theorem test_feistelInv : feistelInv (keySchedule 1) 0x0D6A_87A4_2D5E_2DE7#64 = 1 := by decide +kernel
theorem test_ctrInc_carries : ctrInc 0x0000_0000_FFFF_FFFF#64 = 0x0000_0001_0000_0000#64 := by decide

-- The image (V10, P4)

theorem test_image_of_P4 : imageOf (keySchedule 1) 0xFFFF_FFFF_FFFF_FFFF#64 =
    0xFFFFFFFFFFFFFFFFA4CC40EE85BFF348B5883AA9C5CDD0073F4A5B4C92D4D08997A6B41065C942EC57F4310DCD5CD68B520FCCE1D64A698C03924692CF79E53E8F6B03511F6998548F7E90734157E2E7F28530BF5C6F0EB0E0D26C14C575C09AFE6C810EC2A238F1#832 := by
  decide +kernel
theorem test_image_bytes : (imageBytes (imageOf (keySchedule 1) 1)).take 8 =
    [0xF1, 0x38, 0xA2, 0xC2, 0x0E, 0x81, 0x6C, 0xFE] ∧
    (imageBytes (imageOf (keySchedule 1) 1)).drop 92 = [0xEE, 0x40, 0xCC, 0xA4, 1, 0, 0, 0, 0, 0, 0, 0] := by
  decide +kernel

-- One step of each command on a small state (V11, V12, R66, R75, R80, R81, R83, R84)

theorem test_seed_counter_and_status :
    got (exec (.seed 1) (plain 0b010)) (fun t => (t.counter, statusOut t, t.keys[23])) =
      some (0, 0x03#8, 0xA4CC40EE#32) := by decide +kernel
theorem test_next_wraps :
    got (exec .next { plain 1 with keys := keySchedule 1, counter := 0xFFFF_FFFF_FFFF_FFFF#64 })
      (fun t => (t.counter, t.completions)) =
      some (0, [⟨0b010#3, .output 0xD115_F3DD_3EB3_3040#64⟩]) := by decide +kernel
theorem test_next_unseeded_status : got (exec .next (plain 0)) statusOut = some 0x02#8 := by decide
theorem test_getState_changes_no_status :
    got (exec .getState (plain 0)) (fun t => (statusOut t, t.counter)) = some (0x00#8, 0) := by decide
theorem test_getState_image :
    got (exec .getState { plain 1 with counter := 5 }) State.completions =
      some [⟨0b011#3, .image (5#832 <<< 768)⟩] := by decide +kernel
theorem test_setState_key_and_counter :
    got (exec (.setState (0xA4CC40EE#832 <<< 736 ||| 2#832 <<< 768)) (plain 0))
      (fun t => (t.keys[23], t.keys[22], t.counter, statusOut t)) = some (0xA4CC40EE#32, 0, 2, 0x01#8) := by
  decide +kernel
theorem test_nop_status : got (exec .nop (plain 0)) (fun t => (statusOut t, t.completions)) =
    some (0x00#8, [⟨0b000#3, .none⟩]) := by decide +kernel
theorem test_reserved5_status : got (exec .reserved5 (plain 0)) statusOut = some 0x04#8 := by decide
theorem test_reserved6_completes : got (exec .reserved6 (plain 1)) (fun t => (statusOut t, t.completions)) =
    some (0x05#8, [⟨0b110#3, .none⟩]) := by decide +kernel
theorem test_reserved7_status : got (exec .reserved7 (plain 3)) statusOut = some 0x07#8 := by decide

-- Reset and fetch (R99, R100; the fetch word, log 8)

theorem test_reset_status : statusOut State.reset = 0x00#8 ∧ State.reset.accepted = [] := ⟨by decide, rfl⟩
theorem test_step_resets : got (step { plain 7 with rst := true, accepted := [⟨0b010#3, 0, 0⟩] })
    (fun t => (statusOut t, t.accepted, t.completions, t.rst)) = some (0x00#8, [], [], false) := by decide +kernel
theorem test_fetch_word_from_reset : got (step (State.reset.withFetchWord 8 5)) statusOut = some 0x04#8 := by
  decide +kernel

-- Reading a line's text (R56 to R58)

theorem test_read_seed : readLine ['s', 'e', 'e', 'd', ' ', '0', 'x', '2', '_', 'A', ' ', ';', 'x'] =
    some (.seed 0x2A) := by decide
theorem test_read_upper_prefix : readLine ['S', 'E', 'E', 'D', ' ', '0', 'X', 'f'] = some (.seed 15) := by decide
theorem test_read_next : readLine ['N', 'E', 'X', 'T', ' ', '-', '>', ' ', 'a'] = some (.next (some ['a'])) := by decide
theorem test_read_literal :
    readLine (['S', 'E', 'T', '_', 'S', 'T', 'A', 'T', 'E', ' ', Char.ofNat 123, '1', ',', ' ', '2', ' ', ';', '3',
      Char.ofNat 125]) = some (.setState (.literal [1, 2] 3)) := by decide
theorem test_read_unknown : readLine ['N', 'O', 'P', 'E'] = none := by decide
theorem test_read_trailing_underscore : readLine ['S', 'E', 'E', 'D', ' ', '1', '_'] = none := by decide
theorem test_read_listing : readListing ['N', 'O', 'P', '\n', ' ', ';', 'c'] = some [.nop, .blank] := by decide

-- Witnesses: for each obligation with hypotheses, values that meet them, at the boundaries of its clauses

theorem witness_OpcodeMapAndResponses :
    (⟨0b010#3, 0, 0⟩ : Cmd).op = 0b010#3 ∧ (⟨0b011#3, 0, 0⟩ : Cmd).op = 0b011#3 ∧
    ((⟨0b111#3, 0, 0⟩ : Cmd).op ≠ 0b010#3 ∧ (⟨0b111#3, 0, 0⟩ : Cmd).op ≠ 0b011#3) := by simp

theorem witness_UnreadBusesIgnored :
    (∃ c d : Cmd, c ≠ d ∧ c.op = d.op ∧ c.op = 0b001#3 ∧ c.seed = d.seed ∧ (c.op = 0b100#3 → c.image = d.image)) ∧
    (∃ c d : Cmd, c ≠ d ∧ c.op = d.op ∧ c.op = 0b100#3 ∧ c.image = d.image ∧ (c.op = 0b001#3 → c.seed = d.seed)) ∧
    ∃ c d : Cmd, c ≠ d ∧ c.op = d.op ∧ c.op ≠ 0b001#3 ∧ c.op ≠ 0b100#3 :=
  ⟨⟨⟨0b001#3, 5, 0⟩, ⟨0b001#3, 5, 7⟩, by simp⟩, ⟨⟨0b100#3, 5, 7⟩, ⟨0b100#3, 6, 7⟩, by simp⟩,
    ⟨⟨0b010#3, 5, 7⟩, ⟨0b010#3, 6, 8⟩, by simp⟩⟩

theorem witness_EncodeNormalisesUnreadBuses :
    Cmd.canonical ⟨0b001#3, 5, 0⟩ = true ∧ Cmd.canonical ⟨0b100#3, 0, 5⟩ = true ∧
    Cmd.canonical ⟨0b010#3, 0, 0⟩ = true := by decide +kernel

theorem witness_ListingAssembly :
    (2 ^ 64 - 1 < 2 ^ 64) ∧ (2 ^ 64 ≤ 2 ^ 64) ∧
    List.lookup ['S'] [((['S'] : HostName), HostValue.image 5)] = some (.image 5) := ⟨by decide, by decide, rfl⟩

theorem witness_RotateLeftMovesBits : (0 < 32 ∧ 31 < 32 ∧ 0 < 31) ∧ (9 < 64 ∧ 0 < 9) ∧ 0 < 1 := by decide

theorem witness_DeriveKeyFormula :
    0 = (((0 : U64).toNat * 2 ^ 9 % 2 ^ 64 + (0 : U64).toNat / 2 ^ 55) * 1498817317654829) % 2 ^ 64 := by decide

theorem witness_KeyScheduleIteratesLcg : 0 < 24 ∧ 23 < 24 := by decide

theorem witness_RoundFunctionFormula :
    (0x00000020#32).extractLsb' 0 5 = 0#5 ∧ (0xFFFFFFE0#32).extractLsb' 0 5 = 0#5 := by decide

theorem witness_FeistelRunsUniformRounds :
    let K : Keys := Vector.replicate 24 0
    let L : Nat → U32 := fun _ => 0
    let R : Nat → U32 := fun _ => 0
    R 0 = (0 : U64).extractLsb' 0 32 ∧ L 0 = (0 : U64).extractLsb' 32 32 ∧
      ∀ (i : Nat) (h : i < 24), L (i + 1) = R i ∧ R (i + 1) = L i ^^^ round32 (R i) K[i] := by
  refine ⟨by decide, by decide, fun i h => ⟨rfl, ?_⟩⟩
  rw [Vector.getElem_replicate]
  show (0 : U32) = 0 ^^^ round32 0 0
  decide

theorem witness_SeedLoadsSchedule : 0 < 1 ∧ 0 < 7 := by decide
theorem witness_SetStateLoadsImage : (0 < 24 ∧ 23 < 24) ∧ 0 < 1 ∧ 0 < 7 := by decide
theorem witness_NextOutputsBlock : seeded (plain 1) = true ∧ seeded (plain 0) = false ∧ 0 ≠ 1 ∧ 7 ≠ 1 := by decide
theorem witness_UnseededNextDraws : seeded (plain 6) = false := by decide

theorem witness_ReservedMarksBadcmd :
    ∀ p ∈ [(Instr.reserved5, 0b101#3), (Instr.reserved6, 0b110#3), (Instr.reserved7, 0b111#3)],
      (p.1 = .reserved5 ∧ p.2 = 0b101#3) ∨ (p.1 = .reserved6 ∧ p.2 = 0b110#3) ∨
        (p.1 = .reserved7 ∧ p.2 = 0b111#3) := by simp

theorem witness_ImageFieldPositions : 0 < 24 ∧ 23 < 24 := by decide
theorem witness_ImageBytesLittleEndian :
    (0 < 104 ∧ 103 < 104) ∧ (0 < 24 ∧ 23 < 24) ∧ (0 < 4 ∧ 3 < 4) ∧ (0 < 8 ∧ 7 < 8) ∧
    (List.replicate 104 (0 : Byte)).length = 104 := by decide

theorem witness_SaveRestoreIsNoOp : seeded (plain 1) = true ∧ seeded (plain 0) = false := by decide

theorem witness_StepRunsDecodedCommand :
    ({ plain 0 with accepted := [⟨0b010#3, 0, 0⟩] }.rst = false ∧
      { plain 0 with accepted := [⟨0b010#3, 0, 0⟩] }.accepted = ⟨0b010#3, 0, 0⟩ :: []) ∧
    decodeTableWord 8 2 = some .next := ⟨⟨rfl, rfl⟩, by decide +kernel⟩

theorem witness_IdleStepChangesNothing : (plain 0).rst = false ∧ (plain 0).accepted = [] := ⟨rfl, rfl⟩
theorem witness_ResetClearsStatus : { plain 7 with rst := true }.rst = true := rfl
theorem witness_ResetDrawsKeysAndCounter : { plain 7 with rst := true }.rst = true ∧ 0 < 24 ∧ 23 < 24 := by decide
theorem witness_ResetAbandonsPending : { plain 7 with rst := true, accepted := [⟨0b010#3, 0, 0⟩] }.rst = true := rfl
theorem witness_ResetKeepsPresentedCompletions :
    { plain 7 with rst := true, completions := [⟨0b000#3, .none⟩] }.rst = true := rfl
theorem witness_AcceptCapturesCommand : (plain 0).rst = false ∧ { plain 0 with rst := true }.rst = true := ⟨rfl, rfl⟩
theorem witness_CompletionsTakenInOrder :
    { plain 1 with completions := [⟨0b010#3, .output 5⟩] }.completions = ⟨0b010#3, .output 5⟩ :: [] := rfl

theorem witness_RunCompletesInOrder :
    decode ⟨0b011#3, 0, 0⟩ = .getState ∧ decode ⟨0b010#3, 0, 0⟩ = .next ∧
    ∃ u, runCommands [encode (.seed 1)] (plain 0) = .next u ∧ seeded u = true := ⟨rfl, rfl, _, rfl, by decide⟩

theorem witness_StepsRefineSequentialRun :
    { plain 0 with accepted := [⟨0b001#3, 1, 0⟩, ⟨0b010#3, 0, 0⟩] }.rst = false := rfl

theorem witness_MarksSetExactlyWhen :
    (∃ t, exec .next (plain 0) = .next t ∧ unseededUse t = true) ∧
    (∃ t, exec .reserved5 (plain 0) = .next t ∧ badcmd t = true) ∧
    { plain 7 with rst := true }.rst = true ∧ ∃ t, step { plain 7 with rst := true } = .next t :=
  ⟨⟨_, exec_eq _ _, by decide⟩, ⟨_, exec_eq _ _, by decide⟩, rfl, _, rfl⟩
theorem witness_SeededRecordsLoads :
    ({ plain 7 with rst := true }.rst = true ∧ ∃ t, step { plain 7 with rst := true } = .next t) ∧
    (∃ t, runCommands [encode .nop] (plain 0) = .next t) ∧
    (∃ t, runCommands [encode (.seed 1), encode .next] (plain 0) = .next t) ∧
    [encode (.seed 1), encode .next].any (fun c => loadsState (decode c)) = true :=
  ⟨⟨rfl, _, rfl⟩, ⟨_, rfl⟩, ⟨_, rfl⟩, rfl⟩
theorem witness_StatusBitsClearedByResetOnly :
    ((∃ t, step (plain 7) = .next t) ∧ (plain 7).rst = false ∧ (plain 7).status.getLsbD 2 = true) ∧
    (∃ t, step { plain 7 with rst := true } = .next t) ∧ { plain 7 with rst := true }.rst = true :=
  ⟨⟨⟨_, rfl⟩, rfl, by decide⟩, ⟨_, rfl⟩, rfl⟩
theorem witness_StatusHardwiredBitsReadZero : (∃ t, exec .reserved5 (plain 0xF8) = .next t) ∧ 3 ≤ 3 ∧ 3 ≤ 7 :=
  ⟨⟨_, exec_eq _ _⟩, by decide⟩
theorem witness_StepKeepsHardwiredBits :
    reservedClear { plain 7 with accepted := [⟨0b110#3, 0, 0⟩] } = true ∧
    ∃ t, step { plain 7 with accepted := [⟨0b110#3, 0, 0⟩] } = .next t := ⟨by decide, _, rfl⟩

theorem witness_WritersOfKeysAndCounter :
    (∃ t, exec (.seed 1) (plain 0) = .next t ∧ t.keys ≠ (plain 0).keys) ∧
    ∃ t, exec .next (plain 1) = .next t ∧ t.counter ≠ (plain 1).counter :=
  ⟨⟨_, exec_eq _ _, by decide +kernel⟩, ⟨_, exec_eq _ _, by decide +kernel⟩⟩

theorem witness_MarksDoNotDisturbLaterCommands :
    plain 7 = { plain 1 with status := (plain 7).status } ∧ seeded (plain 7) = seeded (plain 1) ∧
    unseededUse (plain 7) = true ∧ badcmd (plain 7) = true := ⟨rfl, by decide⟩

theorem witness_IdempotenceOfCommands :
    (Instr.nop = .nop ∨ Instr.nop = .getState) ∧ (∃ v, Instr.seed 1 = .seed v) ∧
    (∃ v, Instr.setState 1 = .setState v) ∧ seeded (plain 1) = true := ⟨.inl rfl, ⟨1, rfl⟩, ⟨1, rfl⟩, by decide⟩

theorem witness_CounterCountsNexts :
    ∀ c ∈ [encode .next, encode .nop, encode .getState, encode .reserved7], loadsState (decode c) = false := by
  simp [encode, decode, loadsState]

theorem witness_StreamOfSeed :
    (∀ c ∈ [encode .next, encode .nop], loadsState (decode c) = false) ∧
    (0 < 2 ^ 64 ∧ 2 ^ 64 - 1 < 2 ^ 64 ∧ 0 ≠ 2 ^ 64 - 1) := ⟨by simp [encode, decode, loadsState], by decide⟩

theorem witness_CleanRunsIgnoreDraws :
    seeded (plain 0) = false ∧ { plain 0 with counter := 9, drawIx := 4 }.status = (plain 0).status ∧
    ∃ t t', runCommands [encode (.seed 1), encode .next] (plain 0) = .next t ∧
      runCommands [encode (.seed 1), encode .next] { plain 0 with counter := 9, drawIx := 4 } = .next t' ∧
      unseededUse t = false ∧ seeded t = true := ⟨by decide, rfl, _, _, rfl, rfl, by decide, by decide⟩

theorem witness_DrawIndexNeverFalls :
    ∃ t, step { plain 0 with accepted := [⟨0b010#3, 0, 0⟩] } = .next t ∧ t.drawIx = 26 := ⟨_, rfl, rfl⟩

theorem witness_NextGlobalSeedsWithOne :
    ((plain 0).rst = false ∧ runCommands (plain 0).accepted { plain 0 with accepted := [] } = .next (plain 0) ∧
      seeded (plain 0) = false) ∧
    (plain 1).rst = false ∧ runCommands (plain 1).accepted { plain 1 with accepted := [] } = .next (plain 1) ∧
      seeded (plain 1) = true := ⟨⟨rfl, rfl, by decide⟩, rfl, rfl, by decide⟩

/-- The same with commands pending: a NOP on an unseeded engine, a SET_STATE that seeds it. -/
theorem witness_NextGlobalSeedsWithOne_pending :
    (∃ u, runCommands [encode .nop] (plain 0) = .next u ∧ seeded u = false) ∧
    ∃ u, runCommands [encode (.setState 1)] (plain 0) = .next u ∧ seeded u = true :=
  ⟨⟨_, rfl, by decide⟩, _, rfl, by decide⟩

/-- An engine that holds a completion from before a reset, with a command pending and the reset asked for. -/
def resetting : State :=
  { plain 1 with accepted := [encode .nop], completions := [⟨0b010#3, .output 5⟩], rst := true }

theorem witness_NamedLineBindsItsOwnResponse :
    (∃ u, settle resetting = .next u ∧ resetting.rst = true) ∧
    ∃ u, settle { resetting with rst := false } = .next u := ⟨⟨_, rfl, rfl⟩, _, rfl⟩

theorem witness_UnnamedLineIssuesItsCommands :
    (lineBinds (.seed 7) = none ∧ lineWaits (.seed 7) = false ∧
      assembleLine [] (seeded resetting) (.seed 7) = some [encode (.seed 7)] ∧ resetting.rst = true) ∧
    (lineBinds .blank = none ∧ lineWaits .blank = false ∧ assembleLine [] (seeded resetting) .blank = some []) ∧
    (lineBinds (.next none) = none ∧ lineWaits (.next none) = false ∧
      assembleLine [] true (.next none) = some [encode .next] ∧ (plain 1).rst = false) ∧
    (∃ u, settle resetting = .next u ∧ seeded u = false) ∧
    ∃ u, settle (plain 1) = .next u ∧ seeded u = true :=
  ⟨⟨rfl, rfl, rfl, rfl⟩, ⟨rfl, rfl, rfl⟩, ⟨rfl, rfl, rfl, rfl⟩, ⟨_, rfl, by decide⟩, _, rfl, by decide⟩

-- 30_encoding.md R56: the line's own response is bound, not the completion that an earlier run left
theorem test_named_line_after_reset :
    (followLine (.getState (some ['g'])) [] resetting).map
      (fun o => match o with
        | .next (env, t) => (env.map Prod.fst, t.completions.map Completion.op, t.accepted.length, t.rst)
        | .fault _ => ([], [], 0, true)
        | .refused _ => ([], [], 0, true)) = some ([['g']], [0b010#3, 0b011#3], 0, false) := rfl

theorem witness_InstancesShareNothing :
    [plain 0, plain 1][1]? = some (plain 1) ∧ (0 : Nat) ≠ 1 := ⟨rfl, by decide⟩

end Sys2Proof.Tests
end

