-- ==== Sys2Proof/Proofs/Status.lean ====
section
/-! PROOFS. The STATUS register over commands and runs (10_state.md R20, R23). -/

namespace Sys2Proof.Proofs

open Sys2Proof Sys2Proof.Machine Sys2Proof.Laws

/-- Every command answers, and what it answers is `after` (R13, R85). -/
theorem exec_next_iff (i : Instr) (s t : State) : exec i s = .next t ↔ after i s = t := by
  rw [exec_eq, Host.Outcome.next.injEq]

/-- SEEDED after a command (R20): SEED and SET_STATE set it, the others keep it. -/
theorem seeded_after (i : Instr) (s : State) : seeded (after i s) = (seeded s || loadsState i) := by
  simpa [seeded] using after_status_bit i s 0

/-- The reset transition clears SEEDED (R99). -/
theorem seeded_resetTransition (s : State) : seeded (resetTransition s) = false := by
  simp [seeded]

/-- SEEDED after a run of commands (R20): it records whether one of them loaded the keys and the counter. -/
theorem seeded_of_runCommands (cs : List Cmd) {s t : State} (h : runCommands cs s = .next t) :
    seeded t = (seeded s || cs.any (fun c => loadsState (decode c))) := by
  induction cs generalizing s with
  | nil =>
    obtain rfl : s = t := by simpa using h
    simp
  | cons c cs ih =>
    rw [runCommands_cons] at h
    rw [ih h, seeded_after, List.any_cons, Bool.or_assoc]

/-- A seeded NEXT responds the Feistel pass of the counter under the keys (R75). -/
theorem next_completions_of_seeded {t : State} (h : seeded t = true) :
    (after .next t).completions = t.completions ++ [⟨0b010#3, .output (feistel t.keys t.counter)⟩] := by
  rw [after_completions]
  simp [responseOf, opcodeOf, h]

/-- No command touches a hardwired bit of STATUS (R23): the bits commands set are 0, 1 and 2. -/
theorem after_status_hardwired (i : Instr) (s : State) {j : Nat} (hj : 3 ≤ j) :
    (after i s).status.getLsbD j = s.status.getLsbD j := by
  have h0 : j ≠ 0 := by omega
  have h1 : j ≠ 1 := by omega
  have h2 : j ≠ 2 := by omega
  simp [after_status_bit, h0, h1, h2]

/-- The status output shows 0 in the hardwired bits, whatever is stored there (R23). -/
theorem statusOut_hardwired (s : State) : (statusOut s).extractLsb' 3 5 = 0#5 := by
  apply BitVec.eq_of_getLsbD_eq
  intro j _
  simp [statusOut_bit]

/-- Settles O39: SEEDED along a run by induction on its commands, and NEXT's response by the branch SEEDED selects. -/
theorem seededRecordsLoads : Obligations.SeededRecordsLoads := by
  refine ⟨fun s t hrst hstep => ?reset, fun cs s t hrun => seeded_of_runCommands cs hrun,
    fun cs s t hrun hload => ?next⟩
  case reset =>
    obtain rfl : resetTransition s = t := by simpa [step_reset hrst] using hstep
    exact seeded_resetTransition s
  case next =>
    have hseeded : seeded t = true := by simp [seeded_of_runCommands cs hrun, hload]
    exact ⟨after .next t, exec_eq .next t, next_completions_of_seeded hseeded⟩

/-- Settles O41: the output masks bits 7:3, and the bits commands set all lie below them. -/
theorem statusHardwiredBitsReadZero : Obligations.StatusHardwiredBitsReadZero := by
  refine ⟨statusOut_hardwired, fun i s t h j hj => ?_⟩
  obtain rfl := (exec_next_iff i s t).mp h
  exact after_status_hardwired i s hj

end Sys2Proof.Proofs
end

section
/-! PROOFS. Runs of commands and their completions, the steps of one engine and of several side by side, and the bytes of
the state image (20_memory.md R32, R39, R40, R41). -/

namespace Sys2Proof.Proofs

open Sys2Proof Sys2Proof.Machine Sys2Proof.Laws

/-- The state after a run of commands (R39): `runCommands_eq` says that it is what `runCommands` answers. -/
def runAfter (cs : List Cmd) (s : State) : State := cs.foldl (fun u c => after (decode c) u) s

@[simp] theorem runAfter_nil (s : State) : runAfter [] s = s := rfl

@[simp] theorem runAfter_cons (c : Cmd) (cs : List Cmd) (s : State) :
    runAfter (c :: cs) s = runAfter cs (after (decode c) s) := rfl

/-- Every run of commands ends (R85). -/
theorem runCommands_eq (cs : List Cmd) (s : State) : runCommands cs s = .next (runAfter cs s) := by
  induction cs generalizing s with
  | nil => rfl
  | cons c cs ih => rw [runCommands_cons, ih, runAfter_cons]

/-- The completion that executing `c` at `s` adds (R40, R47). -/
def completionOf (c : Cmd) (s : State) : Completion := ⟨opcodeOf (decode c), responseOf (decode c) s⟩

/-- The completions of a run in acceptance order, each command's taken where the commands before it leave the engine. -/
def completionsOf : List Cmd → State → List Completion
  | [], _ => []
  | c :: cs, s => completionOf c s :: completionsOf cs (after (decode c) s)

theorem after_completions_completionOf (c : Cmd) (s : State) :
    (after (decode c) s).completions = s.completions ++ [completionOf c s] := after_completions (decode c) s

/-- A run adds its completions behind those already presented. -/
theorem runAfter_completions (cs : List Cmd) (s : State) :
    (runAfter cs s).completions = s.completions ++ completionsOf cs s := by
  induction cs generalizing s with
  | nil => simp [completionsOf]
  | cons c cs ih => simp [completionsOf, ih, after_completions_completionOf]

/-- What is observed of a run's responses (R107) are its completions. -/
theorem observe_responses_runAfter (cs : List Cmd) (s : State) :
    (observe s (runAfter cs s)).responses = completionsOf cs s := by
  simp [observe, runAfter_completions]

theorem completionsOf_length (cs : List Cmd) (s : State) : (completionsOf cs s).length = cs.length := by
  induction cs generalizing s with
  | nil => rfl
  | cons c cs ih => simp [completionsOf, ih]

theorem completionsOf_append (cs ds : List Cmd) (s : State) :
    completionsOf (cs ++ ds) s = completionsOf cs s ++ completionsOf ds (runAfter cs s) := by
  induction cs generalizing s with
  | nil => rfl
  | cons c cs ih => simp [completionsOf, ih]

/-- A command's completion stands in the run at the command's own place. -/
theorem completionsOf_at_place (before : List Cmd) (c : Cmd) (later : List Cmd) (s : State) :
    (completionsOf (before ++ c :: later) s)[before.length]? = some (completionOf c (runAfter before s)) := by
  rw [completionsOf_append, ← completionsOf_length before s, List.getElem?_append_right le_rfl, Nat.sub_self]
  rfl

/-- Decoding keeps the opcode (R50), so a completion's `rsp_op` is its command's (R47). -/
theorem opcodeOf_decode (c : Cmd) : opcodeOf (decode c) = c.op := by
  obtain ⟨⟨⟨n, hn⟩⟩, seed, image⟩ := c
  interval_cases n <;> rfl

/-- Settles O36: the completions of a run are those of the commands before a place, then that command's own, by
induction on the commands before it. -/
theorem runCompletesInOrder : Obligations.RunCompletesInOrder := by
  intro before c later s
  refine ⟨runAfter before s, runAfter (before ++ c :: later) s, completionOf c (runAfter before s),
    runCommands_eq before s, runCommands_eq (before ++ c :: later) s, ?length, ?place, opcodeOf_decode c, ?own,
    fun hget => ?image, fun hnext hseeded => ?output⟩
  case length => rw [observe_responses_runAfter, completionsOf_length]
  case place => rw [observe_responses_runAfter, completionsOf_at_place]
  case own => exact ⟨_, exec_eq _ _, after_completions_completionOf c _⟩
  case image => simp [completionOf, hget, responseOf]
  case output => simp [completionOf, hnext, responseOf, hseeded]

/-- A command neither reads nor writes the commands pending behind it. -/
theorem after_with_accepted (i : Instr) (s : State) (pending : List Cmd) :
    after i { s with accepted := pending } = { after i s with accepted := pending } := by
  cases i with
  | next =>
    cases h : seeded s with
    | true =>
      have h' : seeded { s with accepted := pending } = true := h
      simp only [after, nextAfter_of_seeded h, nextAfter_of_seeded h']
      rfl
    | false =>
      have h' : seeded { s with accepted := pending } = false := h
      simp only [after, nextAfter_of_unseeded h, nextAfter_of_unseeded h']
      rfl
  | _ => rfl

/-- The state a step leaves: `step_eq` says that it is what `step` answers. -/
def afterStep (s : State) : State :=
  if s.rst then resetTransition s
  else
    match s.accepted with
    | [] => s
    | c :: rest => after (decode c) { s with accepted := rest }

/-- With no reset asked for, a step executes the oldest pending command (R38, R39). -/
theorem step_pending {s : State} (hrst : s.rst = false) {c : Cmd} {rest : List Cmd} (h : s.accepted = c :: rest) :
    step s = .next (after (decode c) { s with accepted := rest }) := by
  simp [step, hrst, fetch_cons h, exec_eq]

/-- Every step answers a next state (R85). -/
theorem step_eq (s : State) : step s = .next (afterStep s) := by
  cases hrst : s.rst with
  | true => simp [afterStep, step_reset hrst, hrst]
  | false =>
    cases h : s.accepted with
    | nil => simp [afterStep, step, fetch_nil h, hrst, h]
    | cons c rest => simp [afterStep, step_pending hrst h, hrst, h]

/-- As many steps as commands are pending execute them in order (R39), from any state with no reset asked for. -/
theorem run_pending {s : State} (hrst : s.rst = false) :
    Sys2Proof.core.run s.accepted.length s = .next (runAfter s.accepted { s with accepted := [] }) := by
  induction h : s.accepted generalizing s with
  | nil =>
    have hs : { s with accepted := [] } = s := by rw [← h]
    rw [List.length_nil, run_zero, runAfter_nil, hs]
  | cons c rest ih =>
    rw [List.length_cons, run_succ (step_pending hrst h), ih (by simpa using hrst) (by simp), runAfter_cons]
    simp only [after_with_accepted]

/-- Settles O37: by induction on the pending commands; no command's effect depends on those behind it. -/
theorem stepsRefineSequentialRun : Obligations.StepsRefineSequentialRun :=
  fun _ hrst => ⟨_, runCommands_eq _ _, run_pending hrst⟩

/-- A step of engine `i` rewrites the entry at `i` and nothing else (R41). -/
theorem platformStep_eq (i : Nat) (p : List State) : platformStep i p = .next (p.modify i afterStep) := by
  cases h : p[i]? with
  | none =>
    have hlen : p.length ≤ i := List.getElem?_eq_none_iff.mp h
    simp [platformStep, h, List.modify_eq_self hlen]
  | some s => simp [platformStep, h, step_eq, List.modify_eq_set_getElem?]

/-- Settles O52: a platform step rewrites its own entry by a function of that entry alone. -/
theorem instancesShareNothing : Obligations.InstancesShareNothing := by
  intro p i
  refine ⟨p.modify i afterStep, platformStep_eq i p, List.length_modify .., fun j hj => ?others, fun s hs => ?own,
    fun j hj => ⟨_, _, platformStep_eq j p, platformStep_eq j _, ?commute⟩⟩
  case others => simp [hj.symm]
  case own => exact ⟨afterStep s, step_eq s, by simp [hs]⟩
  case commute => rw [platformStep_eq, List.modify_modify_ne _ _ _ hj.symm]

/-- Bit `j` of word `i` of a concatenation stands at bit `w * i + j` (R6). -/
theorem concatWords_testBit {w : Nat} (l : List (BitVec w)) {i j : Nat} (hi : i < l.length) (hj : j < w) :
    (concatWords l).testBit (w * i + j) = l[i].getLsbD j := by
  rw [BitVec.getLsbD, ← concatWords_word l i hi]
  simp [Nat.testBit_mod_two_pow, Nat.testBit_div_two_pow, hj, Nat.add_comm]

/-- Bit `j` of key `i` stands at bit `32 * i + j` of the image (R78). -/
theorem imageOf_key_bit (K : Keys) (c : U64) {i j : Nat} (hi : i < 24) (hj : j < 32) :
    (imageOf K c).getLsbD (32 * i + j) = K[i].getLsbD j := by
  have hi' : i < K.toList.length := by simpa using hi
  rw [BitVec.getLsbD, imageOf_toNat, Nat.add_comm, Nat.testBit_two_pow_mul_add _ (concatKeys_lt K),
    if_pos (by omega), concatWords_testBit K.toList hi' hj]
  simp

/-- Bit `j` of the counter stands at bit `768 + j` of the image (R78). -/
theorem imageOf_counter_bit (K : Keys) (c : U64) (j : Nat) :
    (imageOf K c).getLsbD (768 + j) = c.getLsbD j := by
  rw [BitVec.getLsbD, imageOf_toNat, Nat.add_comm, Nat.testBit_two_pow_mul_add _ (concatKeys_lt K),
    if_neg (by omega), Nat.add_sub_cancel_left]
  rfl

theorem imageBytes_length (v : Image) : (imageBytes v).length = 104 := by simp [imageBytes]

/-- Byte `j` of the serialisation (R32). -/
theorem imageBytes_getElem? (v : Image) {j : Nat} (hj : j < 104) :
    (imageBytes v)[j]? = some (v.extractLsb' (8 * j) 8) := by
  simp [imageBytes, hj]

/-- A key's byte `b` is byte `4 * i + b` of the serialisation (R32). -/
theorem imageBytes_key (K : Keys) (c : U64) {i b : Nat} (hi : i < 24) (hb : b < 4) :
    (imageBytes (imageOf K c))[4 * i + b]? = some (K[i].extractLsb' (8 * b) 8) := by
  rw [imageBytes_getElem? _ (by omega), Option.some_inj]
  apply BitVec.eq_of_getLsbD_eq
  intro k hk
  have hpos : 8 * (4 * i + b) + k = 32 * i + (8 * b + k) := by ring
  simp only [BitVec.getLsbD_extractLsb', hpos, imageOf_key_bit K c hi (show 8 * b + k < 32 by omega)]

/-- The counter's byte `b` is byte `96 + b` of the serialisation (R32). -/
theorem imageBytes_counter (K : Keys) (c : U64) {b : Nat} (hb : b < 8) :
    (imageBytes (imageOf K c))[96 + b]? = some (c.extractLsb' (8 * b) 8) := by
  rw [imageBytes_getElem? _ (by omega), Option.some_inj]
  apply BitVec.eq_of_getLsbD_eq
  intro k _
  have hpos : 8 * (96 + b) + k = 768 + (8 * b + k) := by ring
  simp only [BitVec.getLsbD_extractLsb', hpos, imageOf_counter_bit]

/-- Restoring from an image's own bytes gives the image back (R32). -/
theorem imageOfBytes_imageBytes (v : Image) : imageOfBytes (imageBytes v) = some v := by
  have hvalue : concatWords (imageBytes v) = v.toNat :=
    (concatWords_fields v 8 104).trans (Nat.mod_eq_of_lt v.isLt)
  rw [imageOfBytes, if_pos (imageBytes_length v), hvalue, BitVec.ofNat_toNat, BitVec.setWidth_eq]

/-- Serialising the image restored from 104 bytes gives the bytes back (R32). -/
theorem imageBytes_ofNat_concatWords {bs : List Byte} (h : bs.length = 104) :
    imageBytes (BitVec.ofNat 832 (concatWords bs)) = bs := by
  apply List.ext_getElem (by rw [imageBytes_length, h])
  intro j _ hj
  apply BitVec.eq_of_getLsbD_eq
  intro k hk
  have hpos : 8 * j + k < 832 := by omega
  have hbyte : (BitVec.ofNat 832 (concatWords bs)).getLsbD (8 * j + k) = bs[j].getLsbD k := by
    rw [BitVec.getLsbD_ofNat, concatWords_testBit bs hj hk, decide_eq_true hpos, Bool.true_and]
  simpa [imageBytes, hk] using hbyte

/-- Settles O25: bytes, keys and counter compared bit by bit at their positions in the image. -/
theorem imageBytesLittleEndian : Obligations.ImageBytesLittleEndian :=
  ⟨fun v => ⟨imageBytes_length v, fun _ hj => imageBytes_getElem? v hj, imageOfBytes_imageBytes v⟩,
    fun K c => ⟨fun _ hi _ hb => imageBytes_key K c hi hb, fun _ hb => imageBytes_counter K c hb⟩,
    fun _ h => ⟨_, if_pos h, imageBytes_ofNat_concatWords h⟩⟩

end Sys2Proof.Proofs
end

section
/-! PROOFS. The opcode map and what each opcode's completion carries (30_encoding.md R50). -/

namespace Sys2Proof.Proofs

open Sys2Proof Sys2Proof.Machine Sys2Proof.Laws

/-- NEXT is the only command with opcode 010. -/
theorem opcodeOf_eq_next_iff (i : Instr) : opcodeOf i = 0b010#3 ↔ i = .next := by
  cases i <;> simp [opcodeOf]

/-- GET_STATE is the only command with opcode 011. -/
theorem opcodeOf_eq_getState_iff (i : Instr) : opcodeOf i = 0b011#3 ↔ i = .getState := by
  cases i <;> simp [opcodeOf]

/-- A command is decoded as NEXT exactly when its opcode is 010, whatever its buses hold. -/
theorem decode_eq_next_iff (c : Cmd) : decode c = .next ↔ c.op = 0b010#3 := by
  rw [← opcodeOf_eq_next_iff, opcodeOf_decode]

/-- A command is decoded as GET_STATE exactly when its opcode is 011, whatever its buses hold. -/
theorem decode_eq_getState_iff (c : Cmd) : decode c = .getState ↔ c.op = 0b011#3 := by
  rw [← opcodeOf_eq_getState_iff, opcodeOf_decode]

/-- Only NEXT and GET_STATE respond with data: every other completion carries none. -/
theorem responseOf_eq_none {i : Instr} (hnext : i ≠ .next) (hget : i ≠ .getState) (s : State) :
    responseOf i s = .none := by
  cases i with
  | next => exact absurd rfl hnext
  | getState => exact absurd rfl hget
  | _ => rfl

/-- Settles O2: the map by evaluating `decode` at each opcode, the responses by which opcodes decode to NEXT and to
GET_STATE. -/
theorem opcodeMapAndResponses : Obligations.OpcodeMapAndResponses := by
  refine ⟨fun seed image => ⟨rfl, rfl, rfl, rfl, rfl, rfl, rfl, rfl⟩, fun c s =>
    ⟨after (decode c) s, responseOf (decode c) s, exec_eq _ _, ?completion, fun hop => ?output, fun hop => ?image,
      fun hnext hget => ?none⟩⟩
  case completion => rw [after_completions, opcodeOf_decode]
  case output => exact ⟨_, by rw [(decode_eq_next_iff c).mpr hop]; rfl⟩
  case image => exact ⟨_, by rw [(decode_eq_getState_iff c).mpr hop]; rfl⟩
  case none =>
    exact responseOf_eq_none (mt (decode_eq_next_iff c).mp hnext) (mt (decode_eq_getState_iff c).mp hget) s

end Sys2Proof.Proofs
end

section
/-! PROOFS. The key schedule and SEED (40_key_schedule.md R59, R62, R66). -/

namespace Sys2Proof.Proofs

open Sys2Proof Sys2Proof.Machine Sys2Proof.Laws

/-- Settles O8: the wrap of the product and the wrap of the sum are one reduction at the end. -/
theorem lcgStepFormula : Obligations.LcgStepFormula := by
  intro acc
  calc (lcgStep acc).toNat
      = (acc.toNat * lcgMul.toNat % 2 ^ 64 + lcgInc.toNat) % 2 ^ 64 := by
        rw [lcgStep, BitVec.toNat_add, BitVec.toNat_mul]
    _ = (acc.toNat * 6364136223846793005 + 1442695040888963407) % 2 ^ 64 := by
        rw [Nat.mod_add_mod, lcgMul_toNat, lcgInc_toNat]

/-- Entry `i` of the loop of R62 comes from the accumulator after `i + 1` steps, wherever the loop starts and however long
it runs. -/
theorem keyList_getElem? {n i : Nat} (h : i < n) (acc : U64) :
    (keyList n acc)[i]? = some (deriveKey (lcgStep^[i + 1] acc)) := by
  induction n generalizing acc i with
  | zero => exact absurd h (Nat.not_lt_zero i)
  | succ n ih =>
    cases i with
    | zero => simp [keyList]
    | succ i =>
      calc (keyList (n + 1) acc)[i + 1]?
          = (keyList n (lcgStep acc))[i]? := by rw [keyList, List.getElem?_cons_succ]
        _ = some (deriveKey (lcgStep^[i + 1] (lcgStep acc))) := ih (Nat.lt_of_succ_lt_succ h) (lcgStep acc)
        _ = some (deriveKey (lcgStep^[i + 1 + 1] acc)) := by rw [Function.iterate_succ_apply lcgStep (i + 1)]

/-- Settles O11: the keys are the loop's entries (`keyList_getElem?`). -/
theorem keyScheduleIteratesLcg : Obligations.KeyScheduleIteratesLcg := by
  intro seed i h
  have hentry : (keySchedule seed).toList[i]? = some (deriveKey (lcgStep^[i + 1] seed)) := by
    rw [keySchedule_toList, keyList_getElem? (n := numRounds) h]
  rwa [Vector.getElem?_toList, Vector.getElem?_eq_getElem h, Option.some.injEq] at hentry

/-- The first key comes from one step of the seed. -/
theorem keySchedule_zero (seed : U64) : (keySchedule seed)[0] = deriveKey (lcgStep seed) :=
  keyScheduleIteratesLcg seed 0 (by decide)

/-- The LCG takes 0 to its increment. -/
theorem lcgStep_zero : lcgStep 0 = lcgInc := by simp [lcgStep]

/-- What SEED does to every STATUS bit: it sets bit 0 and leaves the others. -/
theorem after_seed_status_bit (v : U64) (s : State) (j : Nat) :
    (after (.seed v) s).status.getLsbD j = (s.status.getLsbD j || decide (j = 0)) := by
  simp [after_status_bit, loadsState, isNext, isReserved]

/-- SEED leaves every STATUS bit but bit 0. -/
theorem after_seed_status_bit_of_pos (v : U64) (s : State) {j : Nat} (hj : 0 < j) :
    (after (.seed v) s).status.getLsbD j = s.status.getLsbD j := by
  simp [after_seed_status_bit, Nat.ne_of_gt hj]

/-- Settles O16: SEED's effect and frame field by field, from what every command leaves; its values from the LCG steps of
R62. -/
theorem seedLoadsSchedule : Obligations.SeedLoadsSchedule := by
  refine ⟨fun v s => ⟨after (.seed v) s, exec_eq _ s, after_keys _ s, after_counter _ s, ?seeded,
    after_seed_status_bit_of_pos v s Nat.one_pos, after_seed_status_bit_of_pos v s Nat.two_pos,
    fun _ hj => after_seed_status_bit_of_pos v s hj, after_completions _ s, after_accepted _ s, after_rst _ s,
    after_drawIx _ s⟩, ?firstOfZero, ?valueOfZero, ?valueOfMax, ?valueOfOne, ?lastOfOne⟩
  case seeded => simp [seeded_after, loadsState]
  case firstOfZero => rw [keySchedule_zero, lcgStep_zero]; rfl
  case valueOfZero | valueOfMax | valueOfOne => rw [keySchedule_zero]; decide
  case lastOfOne => rw [keyScheduleIteratesLcg 1 23 (by decide)]; decide

end Sys2Proof.Proofs
end

section
/-! PROOFS. The round function, the Feistel pass and the counter increment (41_feistel_generation.md R67, R68, R71, R72,
R74). -/

namespace Sys2Proof.Proofs

open Sys2Proof Sys2Proof.Machine Sys2Proof.Laws

/-- The bits that leave at the top of a rotate come back below those that stay, so the two parts add up. At amount 0 the
second part is 0. -/
theorem rotl_toNat_eq_add {w : Nat} (x : BitVec w) {n : Nat} (h : n ≤ w) :
    (rotl x n).toNat = x.toNat * 2 ^ n % 2 ^ w + x.toNat / 2 ^ (w - n) := by
  obtain rfl | hn := Nat.eq_zero_or_pos n
  · simp [Nat.mod_eq_of_lt x.isLt, Nat.div_eq_of_lt x.isLt]
  · have hsplit : 2 ^ w = 2 ^ (w - n) * 2 ^ n := by rw [← Nat.pow_add, Nat.sub_add_cancel h]
    have hhigh : x.toNat * 2 ^ n % 2 ^ w = 2 ^ n * (x.toNat % 2 ^ (w - n)) := by
      rw [hsplit, Nat.mul_mod_mul_right, Nat.mul_comm]
    have hlow : x.toNat / 2 ^ (w - n) < 2 ^ n :=
      div_two_pow_lt (by rw [Nat.sub_add_cancel h]; exact x.isLt)
    calc (rotl x n).toNat
        = x.toNat * 2 ^ n % 2 ^ w ||| x.toNat / 2 ^ (w - n) := by
          rw [rotl_of_pos x hn, BitVec.toNat_or, BitVec.toNat_shiftLeft, BitVec.toNat_ushiftRight,
            Nat.shiftLeft_eq, Nat.shiftRight_eq_div_pow]
      _ = x.toNat * 2 ^ n % 2 ^ w + x.toNat / 2 ^ (w - n) := by
          rw [hhigh, Nat.two_pow_add_eq_or_of_lt hlow]

/-- `ROT_MASK` keeps the low five bits, so a round rotates by `x mod 32` (R68). -/
theorem and_rotMask_toNat (x : U32) : (x &&& rotMask).toNat = x.toNat % 32 := by
  rw [BitVec.toNat_and]
  exact Nat.and_two_pow_sub_one_eq_mod x.toNat 5

/-- R67: the wraps of both sums are one reduction at the end. -/
theorem round32_toNat (x k : U32) :
    (round32 x k).toNat = (k.toNat + x.toNat +
      (x.toNat * 2 ^ (x.toNat % 32) % 2 ^ 32 + x.toNat / 2 ^ (32 - x.toNat % 32))) % 2 ^ 32 := by
  have hamount : x.toNat % 32 ≤ 32 := (Nat.mod_lt _ (by decide)).le
  rw [round32, and_rotMask_toNat, BitVec.toNat_add, BitVec.toNat_add, Nat.mod_add_mod,
    rotl_toNat_eq_add x hamount]

/-- R68: a rotate amount of 0 makes the rotate the identity. -/
theorem round32_of_low_bits_zero {x : U32} (h : x.extractLsb' 0 5 = 0#5) (k : U32) :
    round32 x k = k + 2#32 * x := by
  have hamount : x.toNat % 32 = 0 := by simpa [BitVec.extractLsb'_toNat] using congrArg BitVec.toNat h
  calc round32 x k
      = k + x + x := by rw [round32, and_rotMask_toNat, hamount, rotl_zero]
    _ = k + 2#32 * x := by rw [BitVec.add_assoc, BitVec.two_mul]

/-- Settles O12: the formula by `round32_toNat`, rotate amount 0 by `round32_of_low_bits_zero`. -/
theorem roundFunctionFormula : Obligations.RoundFunctionFormula :=
  ⟨round32_toNat, fun _ k h => round32_of_low_bits_zero h k, by decide, by decide⟩

/-- The rounds of the first `n` keys lead from the first to entry `n` of any sequence of halves that takes one round per
key. -/
theorem foldl_roundStep_take {K : Keys} {H : Nat → Halves}
    (hround : ∀ i (h : i < 24), H (i + 1) = roundStep (H i) K[i]) {n : Nat} (hn : n ≤ 24) :
    (K.toList.take n).foldl roundStep (H 0) = H n := by
  induction n with
  | zero => rfl
  | succ n ih =>
    have hlt : n < K.toList.length := by simpa using hn
    rw [← List.take_append_getElem hlt, List.foldl_concat, ih (Nat.le_of_succ_le hn), Vector.getElem_toList,
      hround n hn]

/-- The pass outputs the halves after 24 rounds as they stand, whatever sequence of halves spells the rounds out (R71). -/
theorem feistel_eq_of_rounds {K : Keys} {c : U64} {H : Nat → Halves} (hstart : H 0 = splitBlock c)
    (hround : ∀ i (h : i < 24), H (i + 1) = roundStep (H i) K[i]) : feistel K c = joinHalves (H 24) := by
  have hall : K.toList.take 24 = K.toList := List.take_of_length_le (by simp)
  rw [feistel, ← hstart, ← foldl_roundStep_take hround le_rfl, hall]

/-- Settles O13: the two recurrences are one recurrence of `roundStep` on the pair of halves (`feistel_eq_of_rounds`). -/
theorem feistelRunsUniformRounds : Obligations.FeistelRunsUniformRounds := by
  intro K c L R hR hL hrounds
  refine feistel_eq_of_rounds (H := fun i => ⟨L i, R i⟩) ?start fun i h => ?round
  case start => simp only [splitBlock, hL, hR]
  case round =>
    obtain ⟨hleft, hright⟩ := hrounds i h
    simp only [roundStep, hleft, hright]

/-- Settles O15: the increment is addition modulo 2^64, and the largest counter goes to 0. -/
theorem counterIncrementWraps : Obligations.CounterIncrementWraps :=
  ⟨fun c => BitVec.toNat_add c 1#64, by decide⟩

end Sys2Proof.Proofs
end

section
/-! PROOFS. The state image, GET_STATE, SET_STATE, NOP and the reserved opcodes (42_state_access.md R78 to R84). -/

namespace Sys2Proof.Proofs

open Sys2Proof Sys2Proof.Machine Sys2Proof.Laws

/-- Key `i` stands in bits `32 * i + 31 : 32 * i` of the image (R78). -/
theorem imageOf_key_field (K : Keys) (c : U64) {i : Nat} (hi : i < 24) :
    (imageOf K c).extractLsb' (32 * i) 32 = K[i] := by
  apply BitVec.eq_of_getLsbD_eq
  intro j hj
  rw [BitVec.getLsbD_extractLsb', imageOf_key_bit K c hi hj, decide_eq_true hj, Bool.true_and]

/-- The counter stands in bits `831 : 768` of the image (R78). -/
theorem imageOf_counter_field (K : Keys) (c : U64) : (imageOf K c).extractLsb' 768 64 = c := by
  apply BitVec.eq_of_getLsbD_eq
  intro j hj
  rw [BitVec.getLsbD_extractLsb', imageOf_counter_bit, decide_eq_true hj, Bool.true_and]

/-- Settles O23: each field compared bit by bit at its position in the image. -/
theorem imageFieldPositions : Obligations.ImageFieldPositions :=
  fun K c => ⟨fun _ hi => imageOf_key_field K c hi, imageOf_counter_field K c⟩

/-- Loading the keys from an image gives back those it was made from (R79). -/
@[simp] theorem imageKeys_imageOf (K : Keys) (c : U64) : imageKeys (imageOf K c) = K :=
  keys_ext fun i hi => by rw [imageKeys, keysOf_getElem _ i hi, imageOf_key_field K c hi]

/-- Loading the counter from an image gives back the one it was made from (R79). -/
@[simp] theorem imageCounter_imageOf (K : Keys) (c : U64) : imageCounter (imageOf K c) = c :=
  imageOf_counter_field K c

/-- A command that neither loads the state, nor is NEXT or reserved, leaves STATUS (R19). -/
theorem after_status_of_sets_no_bit {i : Instr} (hload : loadsState i = false) (hnext : isNext i = false)
    (hreserved : isReserved i = false) (s : State) : (after i s).status = s.status := by
  apply BitVec.eq_of_getLsbD_eq
  intro j _
  simp [after_status_bit, hload, hnext, hreserved]

/-- Settles O19: the frame from what every command leaves, the example from the positions of the fields. -/
theorem getStateRespondsImage : Obligations.GetStateRespondsImage := by
  refine ⟨fun s => ⟨after .getState s, exec_eq _ s, after_completions _ s, after_keys _ s, after_counter _ s,
    after_status_of_sets_no_bit rfl rfl rfl s, after_accepted _ s, after_rst _ s, after_drawIx _ s⟩,
    ?firstKey, imageOf_counter_field _ 1⟩
  case firstKey =>
    calc (imageOf (keySchedule 1) 1).extractLsb' 0 32
        = (keySchedule 1)[0] := imageOf_key_field (keySchedule 1) 1 (i := 0) (by decide)
      _ = deriveKey (lcgStep 1) := keySchedule_zero 1
      _ = 0xC2A238F1#32 := by decide

/-- A command encoded for the port is decoded as itself (R50, R56). -/
@[simp] theorem decode_encode (i : Instr) : decode (encode i) = i := by cases i <;> rfl

/-- A command that responds no data adds no output to a run. -/
theorem outputsOf_completionsOf_cons_of_none {i : Instr} {s : State} (h : responseOf i s = .none) (cs : List Cmd) :
    outputsOf (completionsOf (encode i :: cs) s) = outputsOf (completionsOf cs (after i s)) := by
  simp [completionsOf, completionOf, outputsOf, h]

/-- A seeded NEXT adds the Feistel pass of the counter to a run's outputs (R75). -/
theorem outputsOf_completionsOf_next {s : State} (h : seeded s = true) (cs : List Cmd) :
    outputsOf (completionsOf (encode .next :: cs) s) =
      feistel s.keys s.counter :: outputsOf (completionsOf cs (after .next s)) := by
  simp [completionsOf, completionOf, outputsOf, responseOf, h]

/-- The first output of seed 1 (R77). -/
theorem feistel_keySchedule_one_zero : feistel (keySchedule 1#64) 0#64 = 0x0364_C20C_5A83_DADB#64 := by decide

/-- The output of seed 1's keys at the last counter before the wrap (R81). -/
theorem feistel_keySchedule_one_last :
    feistel (keySchedule 1) 0xFFFF_FFFF_FFFF_FFFF#64 = 0xD115_F3DD_3EB3_3040#64 := by decide

/-- SET_STATE leaves every STATUS bit but bit 0 (R81). -/
theorem after_setState_status_bit_of_pos (img : Image) (s : State) {j : Nat} (hj : 0 < j) :
    (after (.setState img) s).status.getLsbD j = s.status.getLsbD j := by
  simp [after_status_bit, loadsState, isNext, isReserved, Nat.ne_of_gt hj]

/-- After SET_STATE of the image of `K` and `c`, NEXT outputs the Feistel pass of `c` under `K`, whatever the state was
(R75, R81). -/
theorem outputsOf_setState_next (K : Keys) (c : U64) (s : State) :
    outputsOf (observe s (runAfter [encode (.setState (imageOf K c)), encode .next] s)).responses = [feistel K c] := by
  have hseeded : seeded (after (.setState (imageOf K c)) s) = true := by simp [seeded_after, loadsState]
  rw [observe_responses_runAfter, outputsOf_completionsOf_cons_of_none rfl, outputsOf_completionsOf_next hseeded]
  simp [after_keys, after_counter, keysAfter, counterAfter, completionsOf]

/-- After SET_STATE of the image of `K` and `c`, NEXT leaves the counter at `c + 1` (R74, R75). -/
theorem counter_setState_next (K : Keys) (c : U64) (s : State) :
    (runAfter [encode (.setState (imageOf K c)), encode .next] s).counter = ctrInc c := by
  simp [after_counter, counterAfter, seeded_after, loadsState]

/-- Settles O20: SET_STATE's effect and frame field by field; the example loads an image of `imageOf`, so NEXT sees the
keys and the counter it was made from. -/
theorem setStateLoadsImage : Obligations.SetStateLoadsImage := by
  refine ⟨fun img s => ⟨after (.setState img) s, exec_eq _ s, fun i hi => ?keys, after_counter _ s, ?seeded,
    after_setState_status_bit_of_pos img s Nat.one_pos, after_setState_status_bit_of_pos img s Nat.two_pos,
    fun _ hj => after_setState_status_bit_of_pos img s hj, after_completions _ s, after_accepted _ s, after_rst _ s,
    after_drawIx _ s⟩, fun s => ⟨_, runCommands_eq _ s, ?output, ?counter⟩⟩
  case keys => simp only [after_keys, keysAfter, imageKeys, keysOf_getElem _ i hi]
  case seeded => simp [seeded_after, loadsState]
  case output => rw [outputsOf_setState_next, feistel_keySchedule_one_last]
  case counter => rw [counter_setState_next]; decide

/-- SEED, a command that responds nothing and keeps keys and counter, then NEXT: the output is the first one of the
seed, as if the command between were not there (R77). -/
theorem outputsOf_seed_keep_next (v : U64) {i : Instr} (hresponse : ∀ u, responseOf i u = .none)
    (hkeys : ∀ u, keysAfter i u = u.keys) (hcounter : ∀ u, counterAfter i u = u.counter) (s : State) :
    outputsOf (observe s (runAfter [encode (.seed v), encode i, encode .next] s)).responses =
      [feistel (keySchedule v) 0#64] := by
  have hseeded : seeded (after i (after (.seed v) s)) = true := by simp [seeded_after, loadsState]
  have hkeys' : (after i (after (.seed v) s)).keys = keySchedule v :=
    (after_keys i _).trans ((hkeys _).trans (after_keys (.seed v) s))
  have hcounter' : (after i (after (.seed v) s)).counter = 0#64 :=
    (after_counter i _).trans ((hcounter _).trans (after_counter (.seed v) s))
  rw [observe_responses_runAfter, outputsOf_completionsOf_cons_of_none rfl,
    outputsOf_completionsOf_cons_of_none (hresponse _), outputsOf_completionsOf_next hseeded, hkeys', hcounter',
    completionsOf, outputsOf_nil]

/-- Settles O21: the frame from what every command leaves; in the example NOP keeps the keys and the counter that SEED
loaded. -/
theorem nopChangesNothing : Obligations.NopChangesNothing := by
  refine ⟨fun s => ⟨after .nop s, exec_eq _ s, after_completions _ s, after_keys _ s, after_counter _ s,
    after_status_of_sets_no_bit rfl rfl rfl s, after_accepted _ s, after_rst _ s, after_drawIx _ s⟩,
    fun s => ⟨_, runCommands_eq _ s, ?output⟩⟩
  case output =>
    rw [outputsOf_seed_keep_next 1#64 (fun _ => rfl) (fun _ => rfl) (fun _ => rfl) s, feistel_keySchedule_one_zero]

/-- The three reserved opcodes share one meaning (R84). -/
theorem after_of_isReserved {i : Instr} (h : isReserved i = true) (s : State) : after i s = reservedAfter i s := by
  cases i with
  | reserved5 | reserved6 | reserved7 => rfl
  | _ => simp [isReserved] at h

/-- What a reserved opcode does to every STATUS bit (R84): it sets bit 2 and leaves the others. -/
theorem reservedAfter_status_bit (i : Instr) (s : State) (j : Nat) :
    (reservedAfter i s).status.getLsbD j = (s.status.getLsbD j || decide (j = 2)) := markBadcmd_bit s j

/-- A reserved opcode leaves every STATUS bit but bit 2 (R84). -/
theorem reservedAfter_status_bit_of_ne (i : Instr) (s : State) {j : Nat} (hj : j ≠ 2) :
    (reservedAfter i s).status.getLsbD j = s.status.getLsbD j := by
  simp [reservedAfter_status_bit, hj]

/-- SEED, a reserved opcode and NEXT from power-up show SEEDED and BADCMD (R20, R22). -/
theorem statusOut_seed_reserved7_next (n : Nat) :
    statusOut (runAfter [encode (.seed 1#64), encode .reserved7, encode .next] (State.powerUp n)) = 0b0000_0101#8 := by
  apply BitVec.eq_of_getLsbD_eq
  intro j hj
  have hbits : (runAfter [encode (.seed 1#64), encode .reserved7, encode .next] (State.powerUp n)).status.getLsbD j =
      (decide (j = 0) || decide (j = 2)) := by
    simp [after_status_bit, seeded_after, loadsState, isNext, isReserved]
  rw [statusOut_bit, hbits]
  interval_cases j <;> rfl

/-- Settles O22: one meaning for the three opcodes, which sets bit 2 and completes; in the example RESERVED_7 keeps the
keys and the counter that SEED loaded. -/
theorem reservedMarksBadcmd : Obligations.ReservedMarksBadcmd := by
  refine ⟨fun i op s hi => ?effect, fun n => ⟨_, runCommands_eq _ _, ?output, statusOut_seed_reserved7_next n⟩⟩
  case effect =>
    obtain ⟨hreserved, rfl⟩ : isReserved i = true ∧ op = opcodeOf i := by
      rcases hi with ⟨rfl, rfl⟩ | ⟨rfl, rfl⟩ | ⟨rfl, rfl⟩ <;> exact ⟨rfl, rfl⟩
    exact ⟨reservedAfter i s, by rw [exec_eq, after_of_isReserved hreserved], rfl,
      by simp [badcmd, reservedAfter_status_bit], reservedAfter_status_bit_of_ne i s (by decide),
      reservedAfter_status_bit_of_ne i s (by decide), fun _ hj => reservedAfter_status_bit_of_ne i s hj,
      rfl, rfl, rfl, rfl, rfl⟩
  case output =>
    rw [outputsOf_seed_keep_next 1#64 (fun _ => rfl) (fun _ => rfl) (fun _ => rfl), feistel_keySchedule_one_zero]

end Sys2Proof.Proofs
end

section
/-! PROOFS. Completion of every command and the two STATUS marks (60_exceptions.md R85, R86, R87). -/

namespace Sys2Proof.Proofs

open Sys2Proof Sys2Proof.Machine Sys2Proof.Laws

/-- Settles O35: steps and commands are total, and a command adds the one completion that carries its opcode. -/
theorem everyCommandCompletes : Obligations.EveryCommandCompletes :=
  ⟨fun s => ⟨afterStep s, step_eq s⟩,
    fun i s => ⟨after i s, ⟨opcodeOf i, responseOf i s⟩, exec_eq i s, after_completions i s, rfl⟩⟩

/-- UNSEEDED_USE after a command (R86): only a NEXT on an unseeded engine sets it, and no command clears it. -/
theorem unseededUse_after (i : Instr) (s : State) :
    unseededUse (after i s) = (unseededUse s || (isNext i && !seeded s)) := by
  simpa [unseededUse] using after_status_bit i s 1

/-- BADCMD after a command (R86): only a reserved opcode sets it, and no command clears it. -/
theorem badcmd_after (i : Instr) (s : State) : badcmd (after i s) = (badcmd s || isReserved i) := by
  simpa [badcmd] using after_status_bit i s 2

/-- NEXT is no reserved opcode, so the causes of the two marks exclude each other (R87). -/
theorem isReserved_of_isNext {i : Instr} (h : isNext i = true) : isReserved i = false := by
  cases i with
  | next => rfl
  | _ => cases h

/-- A command that sets UNSEEDED_USE is a NEXT (R86). -/
theorem isNext_of_sets_unseededUse {i : Instr} {s : State} (hbefore : unseededUse s = false)
    (hafter : unseededUse (after i s) = true) : isNext i = true := by
  have hcause : isNext i = true ∧ seeded s = false := by simpa [unseededUse_after, hbefore] using hafter
  exact hcause.1

/-- A command that sets UNSEEDED_USE leaves BADCMD as it was (R87). -/
theorem badcmd_after_of_sets_unseededUse {i : Instr} {s : State} (hbefore : unseededUse s = false)
    (hafter : unseededUse (after i s) = true) : badcmd (after i s) = badcmd s := by
  have hreserved : isReserved i = false := isReserved_of_isNext (isNext_of_sets_unseededUse hbefore hafter)
  rw [badcmd_after, hreserved, Bool.or_false]

/-- The reset transition clears UNSEEDED_USE (R99). -/
theorem unseededUse_resetTransition (s : State) : unseededUse (resetTransition s) = false := by
  simp [unseededUse]

/-- The reset transition clears BADCMD (R99). -/
theorem badcmd_resetTransition (s : State) : badcmd (resetTransition s) = false := by
  simp [badcmd]

/-- Settles O38: each mark after a command from its own STATUS bit; a command that sets the first is a NEXT, which leaves
the second; and the reset transition clears STATUS. -/
theorem marksSetExactlyWhen : Obligations.MarksSetExactlyWhen := by
  refine ⟨fun i s t hexec => ?command, fun s t hrst hstep => ?reset⟩
  case command =>
    obtain rfl := (exec_next_iff i s t).mp hexec
    refine ⟨unseededUse_after i s, badcmd_after i s, ?_⟩
    rintro ⟨⟨hclear, hset⟩, hclear', hset'⟩
    rw [badcmd_after_of_sets_unseededUse hclear hset, hclear'] at hset'
    exact Bool.false_ne_true hset'
  case reset =>
    obtain rfl : resetTransition s = t := by simpa [step_reset hrst] using hstep
    exact ⟨unseededUse_resetTransition s, badcmd_resetTransition s⟩

end Sys2Proof.Proofs
end

section
/-! PROOFS. Reset and the commands pending at it (70_reset_and_hazards.md R100). -/

namespace Sys2Proof.Proofs

open Sys2Proof Sys2Proof.Machine Sys2Proof.Laws

/-- The reset transition does not read the commands pending: it leaves no effect of them (R100). -/
theorem resetTransition_with_accepted (s : State) (pending : List Cmd) :
    resetTransition { s with accepted := pending } = resetTransition s := by
  simp only [resetTransition_eq]

/-- An engine that is ready with no command pending executes, in its next step, the command it accepts. -/
theorem step_acceptCommand_of_idle {s : State} (hrst : s.rst = false) (hidle : s.accepted = []) (c : Cmd) :
    step (acceptCommand c s) = exec (decode c) s := by
  have haccept : acceptCommand c s = { s with accepted := [c] } := by simp [acceptCommand_ready hrst, hidle]
  have hdone : { s with accepted := [] } = s := by rw [← hidle]
  calc step (acceptCommand c s)
      = step { s with accepted := [c] } := by rw [haccept]
    _ = .next (after (decode c) { s with accepted := [] }) :=
        step_pending (s := { s with accepted := [c] }) hrst rfl
    _ = exec (decode c) s := by rw [hdone, exec_eq]

/-- Settles O31: the step is the reset transition, which reads nothing of what was pending and leaves the engine ready and
idle, so the command accepted next is the one the next step executes. -/
theorem resetAbandonsPending : Obligations.ResetAbandonsPending := by
  intro s hrst
  refine ⟨resetTransition s, step_reset hrst, resetTransition_accepted s, ?noCompletion, ?ready, ?samePending,
    ?nextCommand⟩
  case noCompletion => rw [resetTransition_completions]
  case ready => simp [cmdReady]
  case samePending =>
    intro pending
    have hreset : step { s with accepted := pending } = .next (resetTransition { s with accepted := pending }) :=
      step_reset hrst
    rw [hreset, resetTransition_with_accepted]
  case nextCommand => exact step_acceptCommand_of_idle (resetTransition_rst s) (resetTransition_accepted s)

end Sys2Proof.Proofs
end

section
/-! PROOFS. The command encoding: the opcode map with the operand buses, and the packed word (30_encoding.md R49, R50, R56;
the packing is the model's, log 7). -/

namespace Sys2Proof.Proofs

open Sys2Proof Sys2Proof.Machine Sys2Proof.Laws

/-- The opcode stands in bits 2:0 of the packed word. -/
theorem toWord_op_bit (c : Cmd) {j : Nat} (hj : j < 3) : c.toWord.getLsbD j = c.op.getLsbD j := by
  rw [Cmd.toWord, BitVec.getLsbD_append, if_pos hj]

/-- The seed bus stands in bits 66:3 of the packed word. -/
theorem toWord_seed_bit (c : Cmd) {j : Nat} (hj : j < 64) : c.toWord.getLsbD (3 + j) = c.seed.getLsbD j := by
  rw [Cmd.toWord, BitVec.getLsbD_append, if_neg (by omega), Nat.add_sub_cancel_left, BitVec.getLsbD_append, if_pos hj]

/-- The image bus stands in bits 898:67 of the packed word. -/
theorem toWord_image_bit (c : Cmd) (j : Nat) : c.toWord.getLsbD (67 + j) = c.image.getLsbD j := by
  have hseed : 67 + j - 3 = 64 + j := by omega
  rw [Cmd.toWord, BitVec.getLsbD_append, if_neg (by omega), hseed, BitVec.getLsbD_append, if_neg (by omega),
    Nat.add_sub_cancel_left]

/-- A bus cut out of a word from bit `p` on holds the word's bits from `p` on. -/
theorem ofNat_shiftRight_bit {n k : Nat} (w : BitVec n) (p : Nat) {j : Nat} (hj : j < k) :
    (BitVec.ofNat k (w.toNat >>> p)).getLsbD j = w.getLsbD (p + j) := by
  rw [BitVec.getLsbD_ofNat, decide_eq_true hj, Bool.true_and, Nat.testBit_shiftRight, BitVec.getLsbD]

/-- Unpacking reads the opcode from bits 2:0 of the word. -/
theorem ofWord_op_bit (w : BitVec 899) {j : Nat} (hj : j < 3) : (Cmd.ofWord w).op.getLsbD j = w.getLsbD j := by
  have hbit := ofNat_shiftRight_bit w 0 hj
  rwa [Nat.zero_add] at hbit

/-- Unpacking reads the seed bus from bits 66:3 of the word. -/
theorem ofWord_seed_bit (w : BitVec 899) {j : Nat} (hj : j < 64) :
    (Cmd.ofWord w).seed.getLsbD j = w.getLsbD (3 + j) := ofNat_shiftRight_bit w 3 hj

/-- Unpacking reads the image bus from bits 898:67 of the word. -/
theorem ofWord_image_bit (w : BitVec 899) {j : Nat} (hj : j < 832) :
    (Cmd.ofWord w).image.getLsbD j = w.getLsbD (67 + j) := ofNat_shiftRight_bit w 67 hj

/-- A command on the port is its three buses, bit by bit. -/
theorem cmd_ext_bits {c d : Cmd} (hop : ∀ j < 3, c.op.getLsbD j = d.op.getLsbD j)
    (hseed : ∀ j < 64, c.seed.getLsbD j = d.seed.getLsbD j)
    (himage : ∀ j < 832, c.image.getLsbD j = d.image.getLsbD j) : c = d := by
  cases c
  cases d
  congr 1
  · exact BitVec.eq_of_getLsbD_eq hop
  · exact BitVec.eq_of_getLsbD_eq hseed
  · exact BitVec.eq_of_getLsbD_eq himage

/-- Unpacking a packed command gives the command back. -/
@[simp] theorem ofWord_toWord (c : Cmd) : Cmd.ofWord c.toWord = c :=
  cmd_ext_bits (fun _ hj => (ofWord_op_bit _ hj).trans (toWord_op_bit c hj))
    (fun _ hj => (ofWord_seed_bit _ hj).trans (toWord_seed_bit c hj))
    (fun j hj => (ofWord_image_bit _ hj).trans (toWord_image_bit c j))

/-- Every 899-bit word is the packing of what it unpacks to: the three places cover the word. -/
theorem toWord_ofWord (w : BitVec 899) : (Cmd.ofWord w).toWord = w := by
  apply BitVec.eq_of_getLsbD_eq
  intro j hj
  rcases Nat.lt_or_ge j 3 with hop | hop
  · rw [toWord_op_bit _ hop, ofWord_op_bit w hop]
  · rcases Nat.lt_or_ge j 67 with hseed | hseed
    · obtain ⟨k, rfl⟩ := Nat.exists_eq_add_of_le hop
      rw [toWord_seed_bit _ (by omega), ofWord_seed_bit w (by omega)]
    · obtain ⟨k, rfl⟩ := Nat.exists_eq_add_of_le hseed
      rw [toWord_image_bit, ofWord_image_bit w (by omega)]

/-- The 899 table bits of a packed command are decoded as that command. -/
theorem decodeTableWord_toWord (c : Cmd) : decodeTableWord 899 c.toWord.toNat = some (decode c) := by
  have hword : Cmd.ofTableWord 899 c.toWord.toNat = c := by
    rw [Cmd.ofTableWord, Nat.mod_eq_of_lt c.toWord.isLt]
    exact ofWord_toWord c
  rw [decodeTableWord, hword]

/-- Settles O4: the port by `decode_encode`, the packed word by comparing the buses bit by bit at their places. -/
theorem decodeInvertsEncode : Obligations.DecodeInvertsEncode :=
  ⟨decode_encode, ofWord_toWord, toWord_ofWord, fun i => by rw [decodeTableWord_toWord, decode_encode]⟩

/-- Encoding what was decoded keeps the opcode and the bus that was read, and writes the others as 0 (R56). -/
theorem encode_decode (c : Cmd) : encode (decode c) =
    { op := c.op, seed := if c.op = 0b001#3 then c.seed else 0#64,
      image := if c.op = 0b100#3 then c.image else 0#832 } := by
  obtain ⟨⟨⟨n, hn⟩⟩, seed, image⟩ := c
  interval_cases n <;> rfl

/-- A canonical command's unread buses are 0 (R56). -/
theorem canonical_iff (c : Cmd) : c.canonical = true ↔
    (c.op ≠ 0b001#3 → c.seed = 0#64) ∧ (c.op ≠ 0b100#3 → c.image = 0#832) := by
  simp [Cmd.canonical, Cmd.readsSeed, Cmd.readsImage, or_iff_not_imp_left]

/-- Settles O5: by `encode_decode`; in a canonical command the buses it writes as 0 are 0 already. -/
theorem encodeNormalisesUnreadBuses : Obligations.EncodeNormalisesUnreadBuses := by
  refine ⟨encode_decode, fun c hc => ?canonical⟩
  case canonical =>
    obtain ⟨hseed, himage⟩ := (canonical_iff c).mp hc
    have hseed' : (if c.op = 0b001#3 then c.seed else 0#64) = c.seed :=
      ite_eq_left_iff.mpr fun h => (hseed h).symm
    have himage' : (if c.op = 0b100#3 then c.image else 0#832) = c.image :=
      ite_eq_left_iff.mpr fun h => (himage h).symm
    rw [encode_decode, hseed', himage']

/-- Settles O3: commands that agree on the opcode and the bus it reads have the same encoding once decoded, and decoding
undoes encoding. -/
theorem unreadBusesIgnored : Obligations.UnreadBusesIgnored := by
  intro c d hop hseed himage
  have hsame : encode (decode c) = encode (decode d) := by
    rw [encode_decode, encode_decode, ← hop]
    congr 1
    · exact ite_congr rfl hseed fun _ => rfl
    · exact ite_congr rfl himage fun _ => rfl
  calc decode c = decode (encode (decode c)) := (decode_encode _).symm
    _ = decode (encode (decode d)) := by rw [hsame]
    _ = decode d := decode_encode _

/-- Settles O1: each word is unpacked and decoded by evaluation. -/
theorem tableWordsDecode : Obligations.TableWordsDecode := by
  unfold Obligations.TableWordsDecode
  decide +kernel

end Sys2Proof.Proofs
end

section
/-! PROOFS. The Feistel pass and its inverse, rotate-left, one key from the accumulator, and the image round trip
(00_scope.md R10; 40_key_schedule.md R60, R61; 41_feistel_generation.md R73; 42_state_access.md R79). -/

namespace Sys2Proof.Proofs

open Sys2Proof Sys2Proof.Machine Sys2Proof.Laws

/-- The inverse round undoes the round with the same key: the half it needs was passed on unchanged (R73). -/
theorem unroundStep_roundStep (h : Halves) (k : U32) : unroundStep (roundStep h k) k = h := by
  simp [unroundStep, roundStep]

/-- The round undoes the inverse round with the same key. -/
theorem roundStep_unroundStep (h : Halves) (k : U32) : roundStep (unroundStep h k) k = h := by
  simp [unroundStep, roundStep]

/-- Steps that are undone one by one are undone as a whole in the reverse order. -/
theorem foldl_reverse_foldl {σ κ : Type} {f g : σ → κ → σ} (hundo : ∀ h k, g (f h k) k = h) (ks : List κ) (h : σ) :
    ks.reverse.foldl g (ks.foldl f h) = h := by
  induction ks generalizing h with
  | nil => rfl
  | cons k ks ih =>
    rw [List.foldl_cons, List.reverse_cons, List.foldl_concat, ih, hundo]

/-- Splitting a joined block gives the halves back. -/
@[simp] theorem splitBlock_joinHalves (h : Halves) : splitBlock (joinHalves h) = h := by
  rw [splitBlock, joinHalves, BitVec.extractLsb'_append_eq_left, BitVec.extractLsb'_append_eq_right]

/-- Joining the halves of a block gives the block back. -/
@[simp] theorem joinHalves_splitBlock (c : U64) : joinHalves (splitBlock c) = c := by
  apply BitVec.eq_of_getLsbD_eq
  intro j hj
  rw [joinHalves, splitBlock, BitVec.getLsbD_append]
  split
  · next hlow => simp [hlow]
  · next hhigh =>
    have hback : 32 + (j - 32) = j := by omega
    have hlow : j - 32 < 32 := by omega
    simp [hback, hlow]

/-- The inverse pass undoes the pass (R73). -/
@[simp] theorem feistelInv_feistel (K : Keys) (c : U64) : feistelInv K (feistel K c) = c := by
  rw [feistelInv, feistel, splitBlock_joinHalves, foldl_reverse_foldl unroundStep_roundStep, joinHalves_splitBlock]

/-- The pass undoes the inverse pass (R73). -/
@[simp] theorem feistel_feistelInv (K : Keys) (o : U64) : feistel K (feistelInv K o) = o := by
  have hundo := foldl_reverse_foldl roundStep_unroundStep K.toList.reverse (splitBlock o)
  rw [List.reverse_reverse] at hundo
  rw [feistelInv, feistel, splitBlock_joinHalves, hundo, joinHalves_splitBlock]

/-- Under one key file, different counters give different blocks (R73). -/
theorem feistel_injective (K : Keys) : Function.Injective (feistel K) :=
  Function.LeftInverse.injective (feistelInv_feistel K)

/-- Settles O14: the rounds are undone one by one, in either order, so the pass has an inverse on both sides. -/
theorem feistelIsBijection : Obligations.FeistelIsBijection := fun K =>
  ⟨⟨feistel_injective K, Function.RightInverse.surjective (feistel_feistelInv K)⟩, feistelInv_feistel K,
    feistel_feistelInv K⟩

/-- Rotate-left as the bits of its two shifts. At amount 0 the second shift leaves no bit. -/
theorem rotl_bit {w : Nat} (x : BitVec w) (n j : Nat) : (rotl x n).getLsbD j =
    (decide (j < w) && !decide (j < n) && x.getLsbD (j - n) || x.getLsbD (w - n + j)) := by
  obtain rfl | hn := Nat.eq_zero_or_pos n
  · rcases Nat.lt_or_ge j w with hj | hj
    · simp [hj]
    · simp [BitVec.getLsbD_of_ge x j hj]
  · rw [rotl_of_pos x hn, BitVec.getLsbD_or, BitVec.getLsbD_shiftLeft, BitVec.getLsbD_ushiftRight]

/-- Rotate-left by `n` takes bit `i` to bit `(i + n) mod w` (R10): it either stays below the top, or comes back in below. -/
theorem rotl_moves_bit {w : Nat} (x : BitVec w) {n i : Nat} (hn : n < w) (hi : i < w) :
    (rotl x n).getLsbD ((i + n) % w) = x.getLsbD i := by
  rcases Nat.lt_or_ge (i + n) w with hstay | hback
  · have hout : x.getLsbD (w - n + (i + n)) = false := BitVec.getLsbD_of_ge x _ (by omega)
    rw [Nat.mod_eq_of_lt hstay, rotl_bit, hout]
    simp [hstay]
  · have hmod : (i + n) % w = i + n - w := by
      rw [Nat.mod_eq_sub_mod hback, Nat.mod_eq_of_lt (by omega)]
    have hfrom : w - n + (i + n - w) = i := by omega
    have hlow : i + n - w < n := by omega
    rw [hmod, rotl_bit, hfrom]
    simp [hlow]

/-- The formula of R10 for a positive amount: the two shifted parts side by side. -/
theorem rotl_toNat_eq_or {w : Nat} (x : BitVec w) {n : Nat} (hn : 0 < n) :
    (rotl x n).toNat = (x.toNat * 2 ^ n % 2 ^ w ||| x.toNat / 2 ^ (w - n)) % 2 ^ w := by
  have hbits : (rotl x n).toNat = x.toNat * 2 ^ n % 2 ^ w ||| x.toNat / 2 ^ (w - n) := by
    rw [rotl_of_pos x hn, BitVec.toNat_or, BitVec.toNat_shiftLeft, BitVec.toNat_ushiftRight, Nat.shiftLeft_eq,
      Nat.shiftRight_eq_div_pow]
  rw [← hbits, Nat.mod_eq_of_lt (rotl x n).isLt]

/-- Settles O7: the formula by the shifts' values, the moves by the shifts' bits. -/
theorem rotateLeftMovesBits : Obligations.RotateLeftMovesBits :=
  fun _ x _ hn => ⟨rotl_zero x, rotl_toNat_eq_or x, fun _ hi => rotl_moves_bit x hn hi⟩

/-- The field that reaches up to a value's top is the value shifted down to it. -/
theorem extractHigh_toNat {m n : Nat} (v : BitVec (m + n)) : (v.extractLsb' m n).toNat = v.toNat / 2 ^ m := by
  rw [BitVec.extractLsb'_toNat, Nat.shiftRight_eq_div_pow, Nat.mod_eq_of_lt (div_two_pow_lt v.isLt)]

/-- The fold in exact arithmetic (R60). -/
theorem foldHigh_toNat (tmp : U64) : (foldHigh tmp).toNat = tmp.toNat ^^^ tmp.toNat / 2 ^ 32 := by
  rw [foldHigh, keyFold, BitVec.toNat_xor, BitVec.toNat_ushiftRight, Nat.shiftRight_eq_div_pow]

/-- The product of R60 in exact arithmetic: the rotate's two parts add up. -/
theorem keyProduct_toNat (acc : U64) : (keyProduct acc).toNat =
    ((acc.toNat * 2 ^ 9 % 2 ^ 64 + acc.toNat / 2 ^ 55) * 1498817317654829) % 2 ^ 64 := by
  rw [keyProduct, keyRot, BitVec.toNat_mul, keyMul_toNat, rotl_toNat_eq_add acc (by decide)]

/-- Settles O9: product, fold and upper half, each by its value. -/
theorem deriveKeyFormula : Obligations.DeriveKeyFormula := by
  intro acc tmp htmp
  rw [deriveKey, extractHigh_toNat (m := 32) (n := 32), foldHigh_toNat, keyProduct_toNat, ← htmp]

/-- The fold leaves the upper half: what it shifts in there is 0 (R61). -/
theorem foldHigh_high (tmp : U64) : (foldHigh tmp).extractLsb' 32 32 = tmp.extractLsb' 32 32 := by
  apply BitVec.eq_of_getLsbD_eq
  intro j hj
  have hout : tmp.getLsbD (keyFold + (32 + j)) = false := BitVec.getLsbD_of_ge tmp _ (by rw [keyFold]; omega)
  rw [BitVec.getLsbD_extractLsb', BitVec.getLsbD_extractLsb', foldHigh, BitVec.getLsbD_xor,
    BitVec.getLsbD_ushiftRight, hout, Bool.xor_false]

/-- Settles O10: the key is the upper half, which the fold leaves. -/
theorem foldLeavesKeyUnchanged : Obligations.FoldLeavesKeyUnchanged :=
  ⟨foldHigh_high, fun acc => foldHigh_high (keyProduct acc)⟩

/-- The keys loaded from an image, put together again, are its low 768 bits. -/
theorem concatWords_imageKeys (v : Image) : concatWords (imageKeys v).toList = v.toNat % 2 ^ 768 := by
  have hfields := concatWords_fields v 32 24
  rwa [show 32 * 24 = 768 from rfl] at hfields

/-- The counter loaded from an image is what stands above its low 768 bits. -/
theorem imageCounter_toNat (v : Image) : (imageCounter v).toNat = v.toNat / 2 ^ 768 :=
  extractHigh_toNat (m := 768) (n := 64) v

/-- The image of what was loaded from an image is that image (R79). -/
theorem imageOf_imageKeys_imageCounter (v : Image) : imageOf (imageKeys v) (imageCounter v) = v := by
  apply BitVec.eq_of_toNat_eq
  rw [imageOf_toNat, concatWords_imageKeys, imageCounter_toNat, Nat.mod_add_div]

/-- Settles O24: loading by the fields' positions, the image by its low and its high part. -/
theorem imageRoundTrip : Obligations.ImageRoundTrip :=
  ⟨fun K c => ⟨imageKeys_imageOf K c, imageCounter_imageOf K c⟩, imageOf_imageKeys_imageCounter⟩

end Sys2Proof.Proofs
end

section
/-! PROOFS. NEXT on a seeded and on an unseeded engine, and which commands write the keys and the counter
(41_feistel_generation.md R75; 10_state.md R15, R18). -/

namespace Sys2Proof.Proofs

open Sys2Proof Sys2Proof.Machine Sys2Proof.Laws

/-- What NEXT does to every STATUS bit: on an unseeded engine it sets bit 1, and it leaves the others (R75). -/
theorem after_next_status_bit (s : State) (j : Nat) :
    (after .next s).status.getLsbD j = (s.status.getLsbD j || (!seeded s && decide (j = 1))) := by
  simp [after_status_bit, loadsState, isNext, isReserved]

/-- A seeded NEXT leaves STATUS (R75). -/
theorem after_next_status_of_seeded {s : State} (h : seeded s = true) : (after .next s).status = s.status := by
  apply BitVec.eq_of_getLsbD_eq
  intro j _
  simp [after_next_status_bit, h]

/-- An unseeded NEXT leaves every STATUS bit but bit 1 (R75). -/
theorem after_next_status_bit_of_ne (s : State) {j : Nat} (hj : j ≠ 1) :
    (after .next s).status.getLsbD j = s.status.getLsbD j := by
  simp [after_next_status_bit, hj]

/-- A seeded NEXT advances the counter (R75). -/
theorem after_next_counter_of_seeded {s : State} (h : seeded s = true) :
    (after .next s).counter = ctrInc s.counter := by simp [after_counter, counterAfter, h]

/-- A seeded NEXT keeps the keys (R75). -/
theorem after_next_keys_of_seeded {s : State} (h : seeded s = true) : (after .next s).keys = s.keys := by
  simp [after_keys, keysAfter, h]

/-- With every key 0 each round takes the zero block to itself. -/
theorem feistel_zero_keys_zero : feistel (Vector.replicate 24 0) 0 = 0 := by decide

/-- After SEED the engine is seeded (R66). -/
theorem seeded_after_seed (v : U64) (s : State) : seeded (after (.seed v) s) = true := by
  simp [seeded_after, loadsState]

/-- `SEED v; NEXT` leaves the counter at 1 (R66, R75). -/
theorem counter_seed_next (v : U64) (s : State) : (runAfter [encode (.seed v), encode .next] s).counter = 1 := by
  simp [after_next_counter_of_seeded (seeded_after_seed v s), after_counter, counterAfter, ctrInc]

/-- `SEED v; NEXT` outputs the first block of the seed's stream (R77). -/
theorem outputsOf_seed_next (v : U64) (s : State) :
    outputsOf (observe s (runAfter [encode (.seed v), encode .next] s)).responses = [feistel (keySchedule v) 0#64] := by
  rw [observe_responses_runAfter, outputsOf_completionsOf_cons_of_none rfl,
    outputsOf_completionsOf_next (seeded_after_seed v s), after_keys, after_counter]
  rfl

/-- Settles O17: both branches of NEXT field by field; in the example SEED loads what NEXT reads. -/
theorem nextOutputsBlock : Obligations.NextOutputsBlock := by
  refine ⟨fun s => ⟨after .next s, exec_eq _ s, fun h => ?seeded, fun h => ?unseeded, after_accepted _ s,
    after_rst _ s⟩, feistel_zero_keys_zero, fun s => ⟨_, runCommands_eq _ s, ?output, counter_seed_next 1#64 s⟩⟩
  case seeded =>
    exact ⟨next_completions_of_seeded h, after_next_counter_of_seeded h, after_next_keys_of_seeded h,
      after_next_status_of_seeded h, by simp [after_drawIx, h]⟩
  case unseeded =>
    refine ⟨⟨_, after_completions .next s⟩, ?_, ?_, after_next_status_bit_of_ne s (by decide),
      fun j hj => after_next_status_bit_of_ne s hj⟩
    · simp [unseededUse_after, isNext, h]
    · simp [seeded_after, loadsState, h]
  case output => rw [outputsOf_seed_next, feistel_keySchedule_one_zero]

/-- Settles O18: the output is drawn first, then the keys and the counter from the next index on. -/
theorem unseededNextDraws : Obligations.UnseededNextDraws := by
  intro s h
  refine ⟨after .next s, exec_eq _ s, ?output, fun i hi => ?key, ?counter, ?index⟩
  case output => simp [after_completions, responseOf, opcodeOf, nextDraw64, h]
  case key => simp [after_keys, keysAfter, h, drawKeys_getElem _ i hi]
  case counter => simp [after_counter, counterAfter, h, drawCounter, Nat.add_assoc]
  case index => simp [after_drawIx, isNext, h]

/-- The commands that leave the keys: all but SEED, SET_STATE and an unseeded NEXT (R15). -/
theorem keysAfter_eq_of_not_writer {i : Instr} {s : State} (hload : loadsState i = false)
    (hnext : i = .next → seeded s = true) : keysAfter i s = s.keys := by
  cases i with
  | seed v | setState v => cases hload
  | next => exact if_pos (hnext rfl)
  | _ => rfl

/-- The commands that leave the counter: all but SEED, SET_STATE and NEXT (R18). -/
theorem counterAfter_eq_of_not_writer {i : Instr} {s : State} (hload : loadsState i = false)
    (hnext : isNext i = false) : counterAfter i s = s.counter := by
  cases i with
  | seed v | setState v => cases hload
  | next => cases hnext
  | _ => rfl

/-- The commands that load the state are SEED and SET_STATE. -/
theorem loadsState_iff (i : Instr) : loadsState i = true ↔ (∃ v, i = .seed v) ∨ ∃ v, i = .setState v := by
  cases i <;> simp [loadsState]

theorem isNext_iff (i : Instr) : isNext i = true ↔ i = .next := by cases i <;> simp [isNext]

/-- Settles O44: a command that is none of the writers leaves the register. -/
theorem writersOfKeysAndCounter : Obligations.WritersOfKeysAndCounter := by
  intro i s t hexec
  obtain rfl := (exec_next_iff i s t).mp hexec
  rw [after_keys, after_counter, ← isNext_iff, ← or_assoc, ← or_assoc, ← loadsState_iff]
  refine ⟨fun hkeys => ?keys, fun hcounter => ?counter⟩
  case keys =>
    by_contra hnone
    obtain ⟨hload, hnext⟩ := not_or.mp hnone
    exact hkeys (keysAfter_eq_of_not_writer (by simpa using hload)
      fun h => by simpa [h, isNext] using hnext)
  case counter =>
    by_contra hnone
    obtain ⟨hload, hnext⟩ := not_or.mp hnone
    exact hcounter (counterAfter_eq_of_not_writer (by simpa using hload) (by simpa using hnext))

end Sys2Proof.Proofs
end

section
/-! PROOFS. Steps, resets and the ports: what a step can do to STATUS and to the draw index (10_state.md R19, R23;
20_memory.md R39; 30_encoding.md R46, R47; 60_exceptions.md R90; 70_reset_and_hazards.md R99, R100). -/

namespace Sys2Proof.Proofs

open Sys2Proof Sys2Proof.Machine Sys2Proof.Laws

/-- Settles O27: with no reset asked for, `step` runs what `fetch` takes. -/
theorem stepRunsDecodedCommand : Obligations.StepRunsDecodedCommand := by
  refine ⟨fun s c rest hrst hpending => ?pending, fun s nbits w i hdecode => ?word⟩
  case pending => rw [step_pending hrst hpending, exec_eq]
  case word =>
    have hcmd : decode (Cmd.ofTableWord nbits w) = i := Option.some.inj hdecode
    rw [step_pending (withFetchWord_rst s nbits w) (withFetchWord_accepted s nbits w), hcmd, exec_eq]
    rfl

/-- Settles O28: there is nothing to fetch. -/
theorem idleStepChangesNothing : Obligations.IdleStepChangesNothing :=
  fun s hrst hidle => by simp [step, hrst, fetch_nil hidle]

/-- Where STATUS is stored as 0, every bit and the output read 0. -/
theorem status_reads_of_zero {s : State} (h : s.status = 0#8) :
    seeded s = false ∧ unseededUse s = false ∧ badcmd s = false ∧ statusOut s = 0#8 := by
  simp [seeded, unseededUse, badcmd, statusOut, h]

/-- Settles O29: the reset transition and power-up store 0. -/
theorem resetClearsStatus : Obligations.ResetClearsStatus :=
  ⟨fun s hrst => ⟨resetTransition s, step_reset hrst, status_reads_of_zero (resetTransition_status s)⟩,
    fun n => status_reads_of_zero (powerUp_status n)⟩

/-- Settles O30: both draw a key file and a counter from the index they find. -/
theorem resetDrawsKeysAndCounter : Obligations.ResetDrawsKeysAndCounter :=
  ⟨fun s hrst => ⟨resetTransition s, step_reset hrst, fun i hi => drawKeys_getElem s.drawIx i hi, rfl, rfl⟩,
    fun n => ⟨fun i hi => drawKeys_getElem n i hi, rfl, rfl⟩⟩

/-- Settles O32: the step is the reset transition, which keeps the completions and releases the request. -/
theorem resetKeepsPresentedCompletions : Obligations.ResetKeepsPresentedCompletions :=
  fun s hrst => ⟨resetTransition s, step_reset hrst, resetTransition_completions s, resetTransition_rst s⟩

/-- An engine that is not ready leaves the command on the port (R47). -/
theorem acceptCommand_not_ready {s : State} (h : s.rst = true) (c : Cmd) : acceptCommand c s = s := by
  simp [acceptCommand, cmdReady, h]

/-- Settles O33: the two cases of readiness. -/
theorem acceptCapturesCommand : Obligations.AcceptCapturesCommand :=
  fun c _ => ⟨fun h => acceptCommand_ready h c, fun h => acceptCommand_not_ready h c⟩

/-- `rsp_data` is what the oldest completion outputs (R47). -/
theorem rspData_eq_some_iff {s : State} {c : Completion} {rest : List Completion} (h : s.completions = c :: rest)
    (v : U64) : rspData s = some v ↔ c.response = .output v := by
  obtain ⟨op, response⟩ := c
  cases response <;> simp [rspData, h]

/-- `rsp_image` is the image that the oldest completion carries (R47). -/
theorem rspImage_eq_some_iff {s : State} {c : Completion} {rest : List Completion} (h : s.completions = c :: rest)
    (v : Image) : rspImage s = some v ↔ c.response = .image v := by
  obtain ⟨op, response⟩ := c
  cases response <;> simp [rspImage, h]

/-- Settles O34: each port output reads the head of the completions, and taking it leaves the tail. -/
theorem completionsTakenInOrder : Obligations.CompletionsTakenInOrder := by
  intro s c rest h
  refine ⟨?valid, ?op, rspData_eq_some_iff h, rspImage_eq_some_iff h, ?take⟩
  case valid => simp [rspValid, h]
  case op => simp [rspOp, h]
  case take => simp [takeCompletion, h]

/-- A STATUS bit that is 1 stays 1 over every command (R19). -/
theorem after_status_bit_of_set {i : Instr} {s : State} {j : Nat} (h : s.status.getLsbD j = true) :
    (after i s).status.getLsbD j = true := by
  simp [after_status_bit, h]

/-- Settles O40: a step is the reset transition, nothing, or a command, and no command clears a bit. -/
theorem statusBitsClearedByResetOnly : Obligations.StatusBitsClearedByResetOnly := by
  intro s t hstep
  obtain ⟨hrst, rfl⟩ | ⟨hrst, _, rfl⟩ | ⟨c, rest, hrst, _, rfl⟩ := step_cases hstep
  · exact ⟨fun hno => by simp [hrst] at hno, fun _ => resetTransition_status s⟩
  · exact ⟨fun _ _ hj => hj, fun hyes => by simp [hrst] at hyes⟩
  · exact ⟨fun _ j hj => after_status_bit_of_set hj, fun hyes => by simp [hrst] at hyes⟩

/-- The invariant of log 9, bit by bit: the hardwired bits of STATUS are stored as 0. -/
theorem reservedClear_iff (s : State) :
    reservedClear s = true ↔ ∀ j, 3 ≤ j → s.status.getLsbD j = false := by
  rw [reservedClear, beq_iff_eq]
  constructor
  · intro hzero j hj
    obtain ⟨k, rfl⟩ := Nat.exists_eq_add_of_le hj
    rcases Nat.lt_or_ge k 5 with hk | hk
    · have hbit := congrArg (BitVec.getLsbD · k) hzero
      simpa [hk] using hbit
    · exact BitVec.getLsbD_of_ge _ _ (by omega)
  · intro hbits
    apply BitVec.eq_of_getLsbD_eq
    intro k _
    simp [hbits (3 + k) (by omega)]

/-- A state that stores STATUS as 0 meets the invariant. -/
theorem reservedClear_of_status_zero {s : State} (h : s.status = 0#8) : reservedClear s = true := by
  simp [reservedClear, h]

/-- Every command keeps the invariant: the bits commands set are 0, 1 and 2 (R23). -/
theorem reservedClear_after {i : Instr} {s : State} (h : reservedClear s = true) :
    reservedClear (after i s) = true := by
  rw [reservedClear_iff] at h ⊢
  intro j hj
  rw [after_status_hardwired i s hj, h j hj]

/-- Settles O42: a reset stores 0, an idle step changes nothing, and a command leaves the hardwired bits. -/
theorem stepKeepsHardwiredBits : Obligations.StepKeepsHardwiredBits := by
  intro s t hclear hstep
  obtain ⟨_, rfl⟩ | ⟨_, _, rfl⟩ | ⟨c, rest, _, _, rfl⟩ := step_cases hstep
  · exact reservedClear_of_status_zero (resetTransition_status s)
  · exact hclear
  · exact reservedClear_after (s := { s with accepted := rest }) hclear

/-- Settles O43: power-up stores STATUS as 0. -/
theorem resetHasHardwiredBits : Obligations.ResetHasHardwiredBits := by
  refine ⟨reservedClear_of_status_zero rfl, fun n => ⟨reservedClear_of_status_zero (powerUp_status n), ?output⟩⟩
  case output =>
    obtain ⟨_, _, _, hout⟩ := status_reads_of_zero (powerUp_status n)
    rw [hout, powerUp_status]

/-- Settles O50: a reset moves the index past 25 draws, an unseeded NEXT past 26, and no other command moves it. -/
theorem drawIndexNeverFalls : Obligations.DrawIndexNeverFalls := by
  intro s t hstep
  obtain ⟨hrst, rfl⟩ | ⟨_, _, rfl⟩ | ⟨c, rest, _, hpending, rfl⟩ := step_cases hstep
  · exact ⟨by simp [afterDraws], .inr (.inl hrst)⟩
  · exact ⟨le_rfl, .inl rfl⟩
  · cases hdraws : isNext (decode c) && !seeded s with
    | false =>
      have hsame : (after (decode c) { s with accepted := rest }).drawIx = s.drawIx :=
        (after_drawIx _ _).trans (if_neg (by simpa [seeded] using hdraws))
      exact ⟨hsame.ge, .inl hsame⟩
    | true =>
      have hmoved : (after (decode c) { s with accepted := rest }).drawIx = s.drawIx + 26 :=
        (after_drawIx _ _).trans (if_pos hdraws)
      obtain ⟨hnext, hunseeded⟩ : isNext (decode c) = true ∧ seeded s = false := by simpa using hdraws
      exact ⟨by omega, .inr (.inr ⟨hunseeded, c, rest, hpending, (isNext_iff _).mp hnext⟩)⟩

end Sys2Proof.Proofs
end

section
/-! PROOFS. Runs compared: what a command reads, so that states alike in it run alike (42_state_access.md R82;
60_exceptions.md R89; 20_memory.md R37). -/

namespace Sys2Proof.Proofs

open Sys2Proof Sys2Proof.Machine Sys2Proof.Laws

/-- Two states alike in everything that a command reads: keys, counter, SEEDED and, for the draws, the draw index. -/
structure ReadsAlike (s t : State) : Prop where
  sameKeys : t.keys = s.keys
  sameCounter : t.counter = s.counter
  sameSeeded : seeded t = seeded s
  sameDrawIx : t.drawIx = s.drawIx

/-- A relation that every command keeps is kept by every run. -/
theorem runAfter_keeps {R : State → State → Prop} (hkeep : ∀ i s t, R s t → R (after i s) (after i t))
    (cs : List Cmd) {s t : State} (h : R s t) : R (runAfter cs s) (runAfter cs t) := by
  induction cs generalizing s t with
  | nil => exact h
  | cons c cs ih => exact ih (hkeep (decode c) s t h)

/-- A command responds what it reads, and no more. -/
theorem responseOf_congr {s t : State} (h : ReadsAlike s t) (i : Instr) : responseOf i t = responseOf i s := by
  cases i <;> simp [responseOf, nextDraw64, h.sameKeys, h.sameCounter, h.sameSeeded, h.sameDrawIx]

/-- A command's effect on what is read depends on what is read alone. -/
theorem readsAlike_after (i : Instr) (s t : State) (h : ReadsAlike s t) : ReadsAlike (after i s) (after i t) where
  sameKeys := by cases i <;> simp [after_keys, keysAfter, h.sameKeys, h.sameSeeded, h.sameDrawIx]
  sameCounter := by cases i <;> simp [after_counter, counterAfter, h.sameCounter, h.sameSeeded, h.sameDrawIx]
  sameSeeded := by rw [seeded_after, seeded_after, h.sameSeeded]
  sameDrawIx := by rw [after_drawIx, after_drawIx, h.sameSeeded, h.sameDrawIx]

/-- States that are read alike give the same completions over every run. -/
theorem completionsOf_congr {s t : State} (h : ReadsAlike s t) (cs : List Cmd) :
    completionsOf cs t = completionsOf cs s := by
  induction cs generalizing s t with
  | nil => rfl
  | cons c cs ih =>
    rw [completionsOf, completionsOf, completionOf, completionOf, responseOf_congr h, ih (readsAlike_after _ s t h)]

/-- States that are read alike stay so over every run. -/
theorem readsAlike_runAfter (cs : List Cmd) {s t : State} (h : ReadsAlike s t) :
    ReadsAlike (runAfter cs s) (runAfter cs t) := runAfter_keeps readsAlike_after cs h

/-- The STATUS a command leaves depends on STATUS alone. -/
theorem after_status_congr (i : Instr) (s t : State) (h : t.status = s.status) :
    (after i t).status = (after i s).status := by
  apply BitVec.eq_of_getLsbD_eq
  intro j _
  rw [after_status_bit, after_status_bit, seeded, seeded, h]

/-- A STATUS bit that is 1 stays 1 over every run of commands (R19). -/
theorem runAfter_status_bit_of_set (cs : List Cmd) {s : State} {j : Nat} (h : s.status.getLsbD j = true) :
    (runAfter cs s).status.getLsbD j = true :=
  runAfter_keeps (R := fun u _ => u.status.getLsbD j = true) (fun _ _ _ hu => after_status_bit_of_set hu)
    (t := s) cs h

/-- What is observed of a run (R107), in terms of its completions and its end. -/
theorem observe_runAfter (cs : List Cmd) (s : State) : observe s (runAfter cs s) =
    { responses := completionsOf cs s, keys := (runAfter cs s).keys, counter := (runAfter cs s).counter,
      status := statusOut (runAfter cs s) } := by
  rw [← observe_responses_runAfter]
  rfl

/-- States that are read alike and hold the same STATUS are observed the same over every run. -/
theorem observe_runAfter_congr {s t : State} (h : ReadsAlike s t) (hstatus : t.status = s.status) (cs : List Cmd) :
    observe s (runAfter cs s) = observe t (runAfter cs t) := by
  have hend := readsAlike_runAfter cs h
  have hendStatus : (runAfter cs t).status = (runAfter cs s).status :=
    runAfter_keeps (R := fun u v => v.status = u.status) after_status_congr cs hstatus
  rw [observe_runAfter, observe_runAfter, completionsOf_congr h, hend.sameKeys, hend.sameCounter, statusOut, statusOut,
    hendStatus]

/-- What SET_STATE, or SEED, does to every STATUS bit: it sets bit 0 and leaves the others. -/
theorem after_status_bit_of_loadsState {i : Instr} (h : loadsState i = true) (s : State) (j : Nat) :
    (after i s).status.getLsbD j = (s.status.getLsbD j || decide (j = 0)) := by
  cases i with
  | seed v | setState v => simp [after_status_bit, loadsState, isNext, isReserved]
  | _ => cases h

/-- Loading the state leaves STATUS where SEEDED is 1 already. -/
theorem after_status_of_loadsState_of_seeded {i : Instr} (h : loadsState i = true) {s : State}
    (hseeded : seeded s = true) : (after i s).status = s.status := by
  apply BitVec.eq_of_getLsbD_eq
  intro j _
  rw [after_status_bit_of_loadsState h]
  rcases Nat.eq_zero_or_pos j with rfl | hj
  · exact Bool.or_eq_left_iff_imp.mpr fun _ => hseeded
  · simp [Nat.ne_of_gt hj]

/-- The state after GET_STATE and SET_STATE of the image it returned. -/
def afterSaveRestore (s : State) : State := after (.setState (imageOf s.keys s.counter)) (after .getState s)

/-- Running the pair leads there. -/
theorem runCommands_saveRestore (s : State) :
    runCommands [encode .getState, encode (.setState (imageOf s.keys s.counter))] s = .next (afterSaveRestore s) := by
  simp [afterSaveRestore]

theorem afterSaveRestore_keys (s : State) : (afterSaveRestore s).keys = s.keys := by
  simp [afterSaveRestore, after_keys, keysAfter]

theorem afterSaveRestore_counter (s : State) : (afterSaveRestore s).counter = s.counter := by
  simp [afterSaveRestore, after_counter, counterAfter]

/-- On a seeded engine the pair leaves STATUS (R82). -/
theorem afterSaveRestore_status_of_seeded {s : State} (h : seeded s = true) :
    (afterSaveRestore s).status = s.status :=
  (after_status_of_loadsState_of_seeded rfl (by rwa [seeded_after, loadsState, Bool.or_false])).trans
    (after_status_of_sets_no_bit rfl rfl rfl s)

/-- On a seeded engine the pair leaves everything that a later command reads (R82). -/
theorem readsAlike_afterSaveRestore {s : State} (h : seeded s = true) : ReadsAlike s (afterSaveRestore s) where
  sameKeys := afterSaveRestore_keys s
  sameCounter := afterSaveRestore_counter s
  sameSeeded := (statusBits_congr (afterSaveRestore_status_of_seeded h)).1
  sameDrawIx := (after_drawIx _ _).trans (after_drawIx _ s)

/-- The pair leaves every STATUS bit but SEEDED. -/
theorem afterSaveRestore_status_bit_of_pos (s : State) {j : Nat} (hj : 0 < j) :
    (afterSaveRestore s).status.getLsbD j = s.status.getLsbD j := by
  rw [afterSaveRestore, after_setState_status_bit_of_pos _ _ hj, after_status_of_sets_no_bit rfl rfl rfl]

/-- Settles O26: on a seeded engine the pair leaves all that a command reads and STATUS, so every later run is observed the
same. -/
theorem saveRestoreIsNoOp : Obligations.SaveRestoreIsNoOp := by
  intro s
  refine ⟨afterSaveRestore s, runCommands_saveRestore s, ?completions, afterSaveRestore_keys s,
    afterSaveRestore_counter s, fun hseeded => ⟨afterSaveRestore_status_of_seeded hseeded, fun cs => ?laterRun⟩,
    fun _ => ⟨?seeded, afterSaveRestore_status_bit_of_pos s Nat.one_pos,
      afterSaveRestore_status_bit_of_pos s Nat.two_pos⟩⟩
  case completions => simp [afterSaveRestore, after_completions, responseOf, opcodeOf]
  case laterRun =>
    exact ⟨_, _, runCommands_eq cs s, runCommands_eq cs _,
      observe_runAfter_congr (readsAlike_afterSaveRestore hseeded) (afterSaveRestore_status_of_seeded hseeded) cs⟩
  case seeded => simp [afterSaveRestore, seeded_after, loadsState]

/-- States that differ in the two marks alone are read alike: no command reads a mark (R89). -/
theorem readsAlike_of_marks {s s' : State} (hmarks : s' = { s with status := s'.status })
    (hseeded : seeded s' = seeded s) : ReadsAlike s s' where
  sameKeys := by rw [hmarks]
  sameCounter := by rw [hmarks]
  sameSeeded := hseeded
  sameDrawIx := by rw [hmarks]

/-- Settles O45: states that differ in the marks are read alike, so they run alike, and a mark set stays set. -/
theorem marksDoNotDisturbLaterCommands : Obligations.MarksDoNotDisturbLaterCommands := by
  intro cs s s' hmarks hseeded
  have hstart : ReadsAlike s s' := readsAlike_of_marks hmarks hseeded
  have hend : ReadsAlike (runAfter cs s) (runAfter cs s') := readsAlike_runAfter cs hstart
  have hpresented : s'.completions = s.completions := by rw [hmarks]
  refine ⟨runAfter cs s, runAfter cs s', runCommands_eq cs s, runCommands_eq cs s', hend.sameKeys, hend.sameCounter,
    ?completions, hend.sameSeeded, runAfter_status_bit_of_set cs, runAfter_status_bit_of_set cs⟩
  case completions => rw [runAfter_completions, runAfter_completions, completionsOf_congr hstart, hpresented]

/-- What SEED and SET_STATE load does not depend on the state. -/
theorem loads_of_loadsState {i : Instr} (h : loadsState i = true) (s t : State) :
    keysAfter i t = keysAfter i s ∧ counterAfter i t = counterAfter i s := by
  cases i with
  | seed v | setState v => exact ⟨rfl, rfl⟩
  | _ => cases h

/-- A state is its seven fields. -/
theorem state_eq_of_fields {s t : State} (hkeys : s.keys = t.keys) (hcounter : s.counter = t.counter)
    (hstatus : s.status = t.status) (haccepted : s.accepted = t.accepted) (hcompletions : s.completions = t.completions)
    (hrst : s.rst = t.rst) (hdrawIx : s.drawIx = t.drawIx) : s = t := by
  cases s
  cases t
  congr

/-- Loading the state a second time changes nothing but the completions (R37). -/
theorem after_after_of_loadsState {i : Instr} (h : loadsState i = true) (s : State) :
    after i (after i s) = { after i s with completions := (after i (after i s)).completions } := by
  have hseeded : seeded (after i s) = true := by rw [seeded_after, h, Bool.or_true]
  obtain ⟨hkeys, hcounter⟩ := loads_of_loadsState h s (after i s)
  refine state_eq_of_fields ?keys ?counter (after_status_of_loadsState_of_seeded h hseeded) (after_accepted i _) rfl
    (after_rst i _) ?drawIx
  case keys => rw [after_keys, hkeys, after_keys]
  case counter => rw [after_counter, hcounter, after_counter]
  case drawIx => simp [after_drawIx, hseeded]

/-- NOP and GET_STATE change nothing but the completions. -/
theorem after_of_changes_nothing {i : Instr} (h : i = .nop ∨ i = .getState) (s : State) :
    after i s = { s with completions := s.completions ++ [⟨opcodeOf i, responseOf i s⟩] } := by
  obtain rfl | rfl := h <;> rfl

/-- The increment never gives the counter back. -/
theorem ctrInc_ne (c : U64) : ctrInc c ≠ c := by
  rw [ctrInc]
  bv_omega

/-- Settles O46: NOP and GET_STATE change no register, SEED and SET_STATE load what does not depend on the state; NEXT
advances the counter, and the pass is injective. -/
theorem idempotenceOfCommands : Obligations.IdempotenceOfCommands := by
  refine ⟨fun i s hi => ?reads, fun i s hi => ?loads, fun s hseeded => ?next⟩
  case reads =>
    have hsame : responseOf i (after i s) = responseOf i s := by
      rw [after_of_changes_nothing hi s]
      obtain rfl | rfl := hi <;> rfl
    refine ⟨after i s, after i (after i s), ⟨opcodeOf i, responseOf i s⟩, exec_eq i s, exec_eq i _,
      after_of_changes_nothing hi s, ?_⟩
    rw [after_of_changes_nothing hi (after i s), hsame]
  case loads =>
    exact ⟨after i s, after i (after i s), exec_eq i s, exec_eq i _,
      after_after_of_loadsState ((loadsState_iff i).mpr hi) s⟩
  case next =>
    have hseeded' : seeded (after .next s) = true := by simp [seeded_after, hseeded]
    refine ⟨after .next s, after .next (after .next s), exec_eq _ s, exec_eq _ _, ?_, ?_,
      (feistel_injective s.keys).ne (ctrInc_ne s.counter).symm⟩
    · rw [after_next_counter_of_seeded hseeded]
      exact ctrInc_ne s.counter
    · rw [next_completions_of_seeded hseeded', next_completions_of_seeded hseeded,
        after_next_keys_of_seeded hseeded, after_next_counter_of_seeded hseeded, List.append_assoc]
      rfl

end Sys2Proof.Proofs
end

section
/-! PROOFS. The stream of a seed: counter and outputs over runs that load nothing, its period, and runs that no draw reaches
(41_feistel_generation.md R76, R77; 10_state.md R21). -/

namespace Sys2Proof.Proofs

open Sys2Proof Sys2Proof.Machine Sys2Proof.Laws

theorem countNext_cons (c : Cmd) (cs : List Cmd) :
    countNext (c :: cs) = countNext cs + if isNext (decode c) then 1 else 0 := List.countP_cons

/-- On a seeded engine a command that loads nothing keeps the keys. -/
theorem after_keys_of_seeded {i : Instr} {s : State} (hload : loadsState i = false) (hseeded : seeded s = true) :
    (after i s).keys = s.keys :=
  (after_keys i s).trans (keysAfter_eq_of_not_writer hload fun _ => hseeded)

/-- On a seeded engine a command that loads nothing advances the counter exactly if it is a NEXT. -/
theorem after_counter_of_seeded {i : Instr} {s : State} (hload : loadsState i = false) (hseeded : seeded s = true) :
    (after i s).counter = if isNext i then ctrInc s.counter else s.counter := by
  cases hnext : isNext i with
  | false => exact (after_counter i s).trans (counterAfter_eq_of_not_writer hload hnext)
  | true =>
    obtain rfl := (isNext_iff i).mp hnext
    exact after_next_counter_of_seeded hseeded

/-- No command that is no NEXT outputs anything. -/
theorem outputsOf_completionOf_of_not_next {c : Cmd} (h : isNext (decode c) = false) (s : State) :
    outputsOf [completionOf c s] = [] := by
  rw [completionOf]
  cases hi : decode c with
  | next => rw [hi] at h; cases h
  | _ => rfl

/-- A seeded NEXT outputs the pass of the counter (R75). -/
theorem outputsOf_completionOf_next {c : Cmd} (h : isNext (decode c) = true) {s : State} (hseeded : seeded s = true) :
    outputsOf [completionOf c s] = [feistel s.keys s.counter] := by
  rw [completionOf, (isNext_iff _).mp h]
  simp [outputsOf, responseOf, hseeded]

/-- The outputs of a run are its first command's and those of the rest. -/
theorem outputsOf_completionsOf_cons (c : Cmd) (cs : List Cmd) (s : State) :
    outputsOf (completionsOf (c :: cs) s) =
      outputsOf [completionOf c s] ++ outputsOf (completionsOf cs (after (decode c) s)) := by
  rw [← outputsOf_append]
  rfl

/-- The first `n` blocks from counter `c` on (R77). -/
def streamFrom (K : Keys) (c : U64) (n : Nat) : List U64 :=
  (List.range n).map (fun j => feistel K (c + BitVec.ofNat 64 j))

@[simp] theorem streamFrom_zero (K : Keys) (c : U64) : streamFrom K c 0 = [] := rfl

/-- The first block of a stream, then the stream from the next counter. -/
theorem streamFrom_succ (K : Keys) (c : U64) (n : Nat) :
    streamFrom K c (n + 1) = feistel K c :: streamFrom K (ctrInc c) n := by
  have hshift : ∀ j, c + BitVec.ofNat 64 (j + 1) = ctrInc c + BitVec.ofNat 64 j := by
    intro j
    rw [ctrInc, BitVec.ofNat_add, BitVec.add_assoc, BitVec.add_comm (BitVec.ofNat 64 j)]
  simp [streamFrom, List.range_succ_eq_map, Function.comp_def, hshift]

/-- From a seeded state, commands that load nothing advance the counter by the number of NEXTs and output the blocks of
the counters it passed (R76, R77). -/
theorem counter_and_outputs_of_seeded (cs : List Cmd) {s : State} (hseeded : seeded s = true)
    (hload : ∀ c ∈ cs, loadsState (decode c) = false) :
    (runAfter cs s).counter = s.counter + BitVec.ofNat 64 (countNext cs) ∧
      outputsOf (completionsOf cs s) = streamFrom s.keys s.counter (countNext cs) := by
  induction cs generalizing s with
  | nil => exact ⟨by simp [countNext], rfl⟩
  | cons c cs ih =>
    obtain ⟨hc, hcs⟩ := List.forall_mem_cons.mp hload
    have hseeded' : seeded (after (decode c) s) = true := by rw [seeded_after, hseeded, Bool.true_or]
    obtain ⟨hcounter, houtputs⟩ := ih hseeded' hcs
    rw [after_keys_of_seeded hc hseeded] at houtputs
    rw [runAfter_cons, hcounter, outputsOf_completionsOf_cons, houtputs, countNext_cons,
      after_counter_of_seeded hc hseeded]
    cases hnext : isNext (decode c) with
    | false => simp [outputsOf_completionOf_of_not_next hnext]
    | true =>
      rw [outputsOf_completionOf_next hnext hseeded]
      refine ⟨?_, by simp [streamFrom_succ]⟩
      simp [ctrInc, BitVec.ofNat_add, BitVec.add_assoc, BitVec.add_comm (BitVec.ofNat 64 (countNext cs))]

/-- Settles O47: SEED clears the counter, and the commands after it advance it once for each NEXT. -/
theorem counterCountsNexts : Obligations.CounterCountsNexts := by
  intro v cs s hload
  refine ⟨_, runCommands_eq _ s, ?_⟩
  obtain ⟨hcounter, _⟩ := counter_and_outputs_of_seeded cs (seeded_after_seed v s) hload
  rw [runAfter_cons, decode_encode, hcounter, after_counter, counterAfter, BitVec.zero_add, BitVec.toNat_ofNat]

/-- The outputs after `SEED v` are the seed's stream from counter 0 on (R77). -/
theorem outputsOf_completionsOf_seed (v : U64) (cs : List Cmd) (s : State)
    (hload : ∀ c ∈ cs, loadsState (decode c) = false) :
    outputsOf (completionsOf (encode (.seed v) :: cs) s) =
      (List.range (countNext cs)).map (fun j => feistel (keySchedule v) (BitVec.ofNat 64 j)) := by
  obtain ⟨_, houtputs⟩ := counter_and_outputs_of_seeded cs (seeded_after_seed v s) hload
  rw [outputsOf_completionsOf_cons_of_none rfl, houtputs, after_keys, after_counter, keysAfter, counterAfter,
    streamFrom]
  simp only [BitVec.zero_add]

/-- Two places of a stream hold the same block exactly if their counters are the same modulo 2^64: the pass is
injective. -/
theorem feistel_ofNat_eq_iff (K : Keys) (i j : Nat) :
    feistel K (BitVec.ofNat 64 i) = feistel K (BitVec.ofNat 64 j) ↔ i % 2 ^ 64 = j % 2 ^ 64 := by
  rw [(feistel_injective K).eq_iff, ← BitVec.toNat_inj, BitVec.toNat_ofNat, BitVec.toNat_ofNat]

/-- The periods of a seed's stream are the multiples of 2^64 (R77). -/
theorem period_iff (K : Keys) (p : Nat) :
    (∀ j : Nat, feistel K (BitVec.ofNat 64 (j + p)) = feistel K (BitVec.ofNat 64 j)) ↔ 2 ^ 64 ∣ p := by
  simp only [feistel_ofNat_eq_iff]
  constructor
  · intro hperiod
    have hzero := hperiod 0
    rw [Nat.zero_add, Nat.zero_mod] at hzero
    exact Nat.dvd_of_mod_eq_zero hzero
  · rintro ⟨k, rfl⟩ j
    exact Nat.add_mul_mod_self_left j _ k

/-- Settles O48: the outputs by `counter_and_outputs_of_seeded`, period and distinctness by the pass being injective. -/
theorem streamOfSeed : Obligations.StreamOfSeed := by
  refine ⟨fun v cs s hload => ⟨_, runCommands_eq _ s, ?outputs⟩,
    fun v => ⟨period_iff (keySchedule v), fun i j hi hj hne => ?distinct⟩⟩
  case outputs => rw [observe_responses_runAfter, outputsOf_completionsOf_seed v cs s hload]
  case distinct =>
    rwa [Ne, feistel_ofNat_eq_iff, Nat.mod_eq_of_lt hi, Nat.mod_eq_of_lt hj]

/-- Two engines alike in STATUS, and in keys and counter once these were loaded; before that they may hold any draws. -/
structure LoadedAlike (s t : State) : Prop where
  sameStatus : t.status = s.status
  sameLoaded : seeded s = true → t.keys = s.keys ∧ t.counter = s.counter

/-- Every command keeps engines alike: it loads the same in both, or works on what was loaded, or leaves them unseeded. -/
theorem loadedAlike_after (i : Instr) (s t : State) (h : LoadedAlike s t) : LoadedAlike (after i s) (after i t) where
  sameStatus := after_status_congr i s t h.sameStatus
  sameLoaded := by
    intro hseeded
    cases hload : loadsState i with
    | true => simpa only [after_keys, after_counter] using loads_of_loadsState hload s t
    | false =>
      have hseeded : seeded s = true := by simpa [seeded_after, hload] using hseeded
      have hseeded' : seeded t = true := (statusBits_congr h.sameStatus).1.trans hseeded
      obtain ⟨hkeys, hcounter⟩ := h.sameLoaded hseeded
      simp only [after_keys_of_seeded hload hseeded, after_keys_of_seeded hload hseeded',
        after_counter_of_seeded hload hseeded, after_counter_of_seeded hload hseeded', hkeys, hcounter, and_self]

/-- A command that is no unseeded NEXT has the same outputs in engines that are alike. -/
theorem outputsOf_completionOf_congr {c : Cmd} {s t : State} (h : LoadedAlike s t)
    (hnext : isNext (decode c) = true → seeded s = true) :
    outputsOf [completionOf c t] = outputsOf [completionOf c s] := by
  cases hc : isNext (decode c) with
  | false => rw [outputsOf_completionOf_of_not_next hc, outputsOf_completionOf_of_not_next hc]
  | true =>
    have hseeded : seeded s = true := hnext hc
    have hseeded' : seeded t = true := (statusBits_congr h.sameStatus).1.trans hseeded
    obtain ⟨hkeys, hcounter⟩ := h.sameLoaded hseeded
    rw [outputsOf_completionOf_next hc hseeded, outputsOf_completionOf_next hc hseeded', hkeys, hcounter]

/-- A run that ends with UNSEEDED_USE 0 begins with no unseeded NEXT (R21). -/
theorem seeded_of_clean_run {c : Cmd} {cs : List Cmd} {s : State}
    (hclean : unseededUse (runAfter (c :: cs) s) = false) (hnext : isNext (decode c) = true) : seeded s = true := by
  cases hseeded : seeded s with
  | true => rfl
  | false =>
    have hmark : unseededUse (after (decode c) s) = true := by simp [unseededUse_after, hnext, hseeded]
    have hend : unseededUse (runAfter (c :: cs) s) = true := runAfter_status_bit_of_set cs hmark
    exact hclean.symm.trans hend

/-- Engines that are alike have the same outputs over a run that ends with UNSEEDED_USE 0. -/
theorem outputsOf_completionsOf_congr (cs : List Cmd) {s t : State} (h : LoadedAlike s t)
    (hclean : unseededUse (runAfter cs s) = false) :
    outputsOf (completionsOf cs t) = outputsOf (completionsOf cs s) := by
  induction cs generalizing s t with
  | nil => rfl
  | cons c cs ih =>
    rw [outputsOf_completionsOf_cons, outputsOf_completionsOf_cons,
      outputsOf_completionOf_congr h (seeded_of_clean_run hclean), ih (loadedAlike_after _ s t h) hclean]

/-- Settles O49: unseeded engines with the same STATUS are alike, and stay so over a clean run. -/
theorem cleanRunsIgnoreDraws : Obligations.CleanRunsIgnoreDraws := by
  intro cs s s' t t' hunseeded hstatus hrun hrun' hclean
  obtain rfl : runAfter cs s = t := by simpa [runCommands_eq] using hrun
  obtain rfl : runAfter cs s' = t' := by simpa [runCommands_eq] using hrun'
  have hstart : LoadedAlike s s' := ⟨hstatus, fun hseeded => by simp [hunseeded] at hseeded⟩
  have hend : LoadedAlike (runAfter cs s) (runAfter cs s') := runAfter_keeps loadedAlike_after cs hstart
  refine ⟨?outputs, hend.sameStatus, hend.sameLoaded⟩
  case outputs =>
    rw [observe_responses_runAfter, observe_responses_runAfter, outputsOf_completionsOf_congr cs hstart hclean]

end Sys2Proof.Proofs
end

section
/-! PROOFS. The host's listings: what a line assembles to, and what following it does to the engine
(30_encoding.md R56 to R58; 70_reset_and_hazards.md R103, R104; logs 13 and 16). -/

namespace Sys2Proof.Proofs

open Sys2Proof Sys2Proof.Machine Sys2Proof.Laws

theorem seedArgValue_of_lt {v : Nat} (h : v < 2 ^ 64) : seedArgValue v = some (BitVec.ofNat 64 v) := if_pos h

theorem seedArgValue_of_ge {v : Nat} (h : 2 ^ 64 ≤ v) : seedArgValue v = none := if_neg (Nat.not_lt.mpr h)

/-- A line that loads a seed in range assembles to that SEED. -/
theorem assembleLine_seed_of_lt (env : HostEnv) (ready : Bool) {v : Nat} (h : v < 2 ^ 64) :
    assembleLine env ready (.seed v) = some [encode (.seed (BitVec.ofNat 64 v))] ∧
      assembleLine env ready (.seedGlobal v) = some [encode (.seed (BitVec.ofNat 64 v))] := by
  simp [assembleLine, seedArgValue_of_lt h]

/-- A line that loads a seed out of range assembles to nothing (log 13). -/
theorem assembleLine_seed_of_ge (env : HostEnv) (ready : Bool) {v : Nat} (h : 2 ^ 64 ≤ v) :
    assembleLine env ready (.seed v) = none ∧ assembleLine env ready (.seedGlobal v) = none := by
  simp [assembleLine, seedArgValue_of_ge h]

/-- SET_STATE of an operand with a value assembles to the command with that image. -/
theorem assembleLine_setState (env : HostEnv) (ready : Bool) {a : ImageArg} {v : Image}
    (h : imageArgValue env a = some v) : assembleLine env ready (.setState a) = some [encode (.setState v)] := by
  simp [assembleLine, h]

/-- A bound name stands for the image it was bound to (R56). -/
theorem imageArgValue_bound {env : HostEnv} {n : HostName} {v : Image} (h : env.lookup n = some (.image v)) :
    imageArgValue env (.bound n) = some v := by
  simp [imageArgValue, h]

/-- The numbers of a key file and a counter are a literal of the grammar (R56). -/
theorem wellFormed_literal (K : Keys) (c : U64) :
    (ImageArg.literal (K.toList.map BitVec.toNat) c.toNat).wellFormed [] = true := by
  have hkeys : (K.toList.map BitVec.toNat).all (fun k => decide (k < 2 ^ 32)) = true := by
    rw [List.all_map, List.all_eq_true]
    exact fun k _ => decide_eq_true k.isLt
  rw [ImageArg.wellFormed, hkeys, decide_eq_true c.isLt, List.length_map, Vector.length_toList]
  rfl

/-- The key file read back from its numbers. -/
theorem keysOf_toNat (K : Keys) :
    keysOf (fun i => BitVec.ofNat 32 ((K.toList.map BitVec.toNat).getD i 0)) = K := by
  refine keys_ext fun i hi => ?_
  rw [keysOf_getElem _ i hi]
  simp [hi]

/-- The literal of a key file and a counter stands for their image (R56, R78). -/
theorem imageArgValue_literal (env : HostEnv) (K : Keys) (c : U64) :
    imageArgValue env (.literal (K.toList.map BitVec.toNat) c.toNat) = some (imageOf K c) := by
  rw [imageArgValue, if_pos (wellFormed_literal K c), keysOf_toNat, BitVec.ofNat_toNat, BitVec.setWidth_eq]

/-- Settles O6: each form of a line by `assembleLine`'s case for it. -/
theorem listingAssembly : Obligations.ListingAssembly := fun env ready _ =>
  ⟨rfl, rfl, fun _ hv => assembleLine_seed_of_lt env ready hv, fun _ hv => assembleLine_seed_of_ge env ready hv,
    rfl, rfl, fun _ _ hn => assembleLine_setState env ready (imageArgValue_bound hn),
    fun K c => assembleLine_setState env ready (imageArgValue_literal env K c), rfl, rfl, rfl⟩

@[simp] theorem runAfter_append (cs ds : List Cmd) (s : State) :
    runAfter (cs ++ ds) s = runAfter ds (runAfter cs s) := List.foldl_append

/-- No run of commands touches the commands pending behind it. -/
@[simp] theorem runAfter_accepted (cs : List Cmd) (s : State) : (runAfter cs s).accepted = s.accepted := by
  induction cs generalizing s with
  | nil => rfl
  | cons c cs ih => rw [runAfter_cons, ih, after_accepted]

/-- No run of commands touches the reset request. -/
@[simp] theorem runAfter_rst (cs : List Cmd) (s : State) : (runAfter cs s).rst = s.rst := by
  induction cs generalizing s with
  | nil => rfl
  | cons c cs ih => rw [runAfter_cons, ih, after_rst]

/-- The state a host finds when everything issued has completed, or was abandoned by a reset: `settle_eq` says that it is
what `settle` answers, `waitAll_eq` that it is what waiting leads to. -/
def settled (s : State) : State :=
  if s.rst then resetTransition s else runAfter s.accepted { s with accepted := [] }

theorem settled_of_reset {s : State} (h : s.rst = true) : settled s = resetTransition s := if_pos h

theorem settled_of_ready {s : State} (h : s.rst = false) :
    settled s = runAfter s.accepted { s with accepted := [] } := if_neg (by simp [h])

theorem settle_eq (s : State) : settle s = .next (settled s) := by
  cases h : s.rst with
  | true => simp [settle, h, settled_of_reset h]
  | false => simp [settle, h, settled_of_ready h, runCommands_eq]

@[simp] theorem settled_rst (s : State) : (settled s).rst = false := by
  cases h : s.rst with
  | true => simp [settled_of_reset h]
  | false => simp [settled_of_ready h, h]

@[simp] theorem settled_accepted (s : State) : (settled s).accepted = [] := by
  cases h : s.rst with
  | true => simp [settled_of_reset h]
  | false => simp [settled_of_ready h]

/-- A state with nothing pending is settled. -/
theorem settled_of_idle {s : State} (hrst : s.rst = false) (hidle : s.accepted = []) : settled s = s := by
  rw [settled_of_ready hrst, hidle, runAfter_nil, ← hidle]

/-- Steps of an idle engine change nothing (R90). -/
theorem run_idle {s : State} (hrst : s.rst = false) (hidle : s.accepted = []) (n : Nat) :
    Sys2Proof.core.run n s = .next s := by
  induction n with
  | zero => rfl
  | succ n ih => rw [run_succ (idleStepChangesNothing s hrst hidle), ih]

/-- A run of `m` steps and then of `n` is a run of `m + n`. -/
theorem run_add {m n : Nat} {s t : State} (h : Sys2Proof.core.run m s = .next t) :
    Sys2Proof.core.run (m + n) s = Sys2Proof.core.run n t := by
  induction m generalizing s with
  | zero =>
    obtain rfl : s = t := Host.Outcome.next.inj h
    rw [Nat.zero_add]
  | succ m ih =>
    rw [run_succ (step_eq s)] at h
    rw [Nat.add_right_comm, run_succ (step_eq s), ih h]

/-- Waiting leads to the settled state (R58): the steps it takes serve the reset, or complete what is pending, and the rest
are idle. -/
theorem waitAll_eq (s : State) : waitAll s = .next (settled s) := by
  have hidle : ∀ n, Sys2Proof.core.run n (settled s) = .next (settled s) :=
    run_idle (settled_rst s) (settled_accepted s)
  cases h : s.rst with
  | true =>
    have hstep : step s = .next (settled s) := by rw [step_reset h, settled_of_reset h]
    exact (run_succ hstep).trans (hidle _)
  | false =>
    have hpending : Sys2Proof.core.run s.accepted.length s = .next (settled s) := by
      rw [settled_of_ready h]
      exact run_pending h
    exact (run_add hpending).trans (hidle 1)

/-- Commands issued and waited for run where everything issued before them has settled (R103; over a reset: log 16). -/
theorem waitAll_after_issueAll {cs : List Cmd} (hcs : cs ≠ []) (s : State) :
    ∃ t, issueAll cs s = .next t ∧ waitAll t = .next (runAfter cs (settled s)) := by
  cases h : s.rst with
  | true =>
    refine ⟨_, issueAll_reset hcs h, ?_⟩
    rw [waitAll_eq, settled_of_ready (by exact resetTransition_rst s), settled_of_reset h]
    rfl
  | false =>
    refine ⟨_, issueAll_ready cs h, ?_⟩
    rw [waitAll_eq, settled_of_ready (by exact h), settled_of_ready h, runAfter_append]

/-- Following a line: wait if it reads `status`, assemble it with what was read, issue its commands. -/
theorem followLine_eq {l : Line} {env : HostEnv} {s t : State} {cs : List Cmd}
    (hwait : waitIf (lineWaits l) s = .next t) (hassemble : assembleLine env (seeded t) l = some cs) :
    followLine l env s = some (issueLine (lineBinds l) cs env t) := by
  simp [followLine, hwait, hassemble]

/-- A line without a name goes on once its commands are issued (R103). -/
theorem issueLine_unnamed {cs : List Cmd} {env : HostEnv} {s t : State} (h : issueAll cs s = .next t) :
    issueLine none cs env s = .next (env, t) := by
  simp [issueLine, h, waitIf, bindResponse]

/-- A line with a name runs its commands where everything issued before has settled, and binds the newest response. -/
theorem issueLine_named {n : HostName} {cs : List Cmd} (hcs : cs ≠ []) {env : HostEnv} {s : State} {v : HostValue}
    (hvalue : lastValue (runAfter cs (settled s)) = some v) :
    issueLine (some n) cs env s = .next ((n, v) :: env, runAfter cs (settled s)) := by
  obtain ⟨t, hissue, hwait⟩ := waitAll_after_issueAll hcs s
  simp [issueLine, hissue, waitIf, hwait, bindResponse, hvalue]

/-- The newest completion's output is what a host can bind. -/
theorem lastValue_of_output {s : State} {earlier : List Completion} {op : Opcode} {v : U64}
    (h : s.completions = earlier ++ [⟨op, .output v⟩]) : lastValue s = some (.output v) := by
  simp [lastValue, h]

/-- The newest completion's image is what a host can bind. -/
theorem lastValue_of_image {s : State} {earlier : List Completion} {op : Opcode} {v : Image}
    (h : s.completions = earlier ++ [⟨op, .image v⟩]) : lastValue s = some (.image v) := by
  simp [lastValue, h]

/-- `NEXT -> n` binds the output of its own NEXT. -/
theorem followLine_next_named (n : HostName) (env : HostEnv) (s : State) {v : U64}
    (h : (after .next (settled s)).completions = (settled s).completions ++ [⟨0b010#3, .output v⟩]) :
    followLine (.next (some n)) env s = some (.next ((n, .output v) :: env, after .next (settled s))) := by
  have hvalue : lastValue (runAfter [encode .next] (settled s)) = some (.output v) := lastValue_of_output h
  rw [followLine_eq (t := s) rfl rfl]
  exact congrArg some (issueLine_named (List.cons_ne_nil _ _) hvalue)

/-- `GET_STATE -> n` binds the image its own GET_STATE returns. -/
theorem followLine_getState_named (n : HostName) (env : HostEnv) (s : State) :
    followLine (.getState (some n)) env s = some (.next
      ((n, .image (imageOf (settled s).keys (settled s).counter)) :: env, after .getState (settled s))) := by
  have hvalue : lastValue (runAfter [encode .getState] (settled s)) =
      some (.image (imageOf (settled s).keys (settled s).counter)) :=
    lastValue_of_image (after_completions .getState (settled s))
  rw [followLine_eq (t := s) rfl rfl]
  exact congrArg some (issueLine_named (List.cons_ne_nil _ _) hvalue)

/-- The commands NEXT.GLOBAL assembles to (R58), where `ready` is SEEDED as the host reads it. -/
def nextGlobalCommands (ready : Bool) : List Cmd :=
  if ready then [encode .next] else [encode (.seed 1#64), encode .next]

/-- NEXT.GLOBAL waits, and issues its commands where everything issued before has settled (R58, R104). -/
theorem followLine_nextGlobal (b : Option HostName) (env : HostEnv) (s : State) :
    followLine (.nextGlobal b) env s =
      some (issueLine b (nextGlobalCommands (seeded (settled s))) env (settled s)) :=
  followLine_eq (waitAll_eq s) rfl

/-- `NEXT.GLOBAL -> n` binds what its last command outputs. -/
theorem followLine_nextGlobal_named (n : HostName) (env : HostEnv) {s : State} {cs : List Cmd} {v : U64}
    (hcs : nextGlobalCommands (seeded (settled s)) = cs) (hne : cs ≠ [])
    (hvalue : lastValue (runAfter cs (settled s)) = some (.output v)) :
    followLine (.nextGlobal (some n)) env s = some (.next ((n, .output v) :: env, runAfter cs (settled s))) := by
  have hidle : settled (settled s) = settled s := settled_of_idle (settled_rst s) (settled_accepted s)
  have hissue := issueLine_named (n := n) (env := env) hne (s := settled s) (by rwa [hidle])
  rw [followLine_nextGlobal, hcs, hissue, hidle]

/-- On an engine that settles unseeded, `NEXT.GLOBAL -> n` binds the first output of seed 1 (R58). -/
theorem followLine_nextGlobal_named_of_unseeded (n : HostName) (env : HostEnv) {s : State}
    (h : seeded (settled s) = false) :
    followLine (.nextGlobal (some n)) env s = some (.next
      ((n, .output (feistel (keySchedule 1) 0)) :: env,
        runAfter [encode (.seed 1#64), encode .next] (settled s))) := by
  have hnext := next_completions_of_seeded (seeded_after_seed 1#64 (settled s))
  rw [after_keys, after_counter] at hnext
  exact followLine_nextGlobal_named n env (by rw [h]; rfl) (List.cons_ne_nil _ _) (lastValue_of_output hnext)

/-- On an engine that settles seeded, `NEXT.GLOBAL -> n` binds the stream's next output (R58). -/
theorem followLine_nextGlobal_named_of_seeded (n : HostName) (env : HostEnv) {s : State}
    (h : seeded (settled s) = true) :
    followLine (.nextGlobal (some n)) env s = some (.next
      ((n, .output (feistel (settled s).keys (settled s).counter)) :: env, runAfter [encode .next] (settled s))) :=
  followLine_nextGlobal_named n env (by rw [h]; rfl) (List.cons_ne_nil _ _)
    (lastValue_of_output (next_completions_of_seeded h))

/-- Settles O51: waiting leads to the run of what is pending, where SEEDED selects the commands. -/
theorem nextGlobalSeedsWithOne : Obligations.NextGlobalSeedsWithOne := by
  intro n env s u hrst hrun
  obtain rfl : settled s = u := by simpa [runCommands_eq, settled_of_ready hrst] using hrun
  exact ⟨fun h => ⟨_, runCommands_eq _ _, followLine_nextGlobal_named_of_unseeded n env h⟩,
    fun h => ⟨_, runCommands_eq _ _, followLine_nextGlobal_named_of_seeded n env h⟩⟩

/-- Settles O53: the line's command runs last, where everything before it has settled, so the newest response is its own;
a reset settles unseeded. -/
theorem namedLineBindsItsOwnResponse : Obligations.NamedLineBindsItsOwnResponse := by
  intro n env s u hsettle
  obtain rfl : settled s = u := by simpa [settle_eq] using hsettle
  refine ⟨⟨after .next (settled s), _, exec_eq _ _, after_completions .next _, ?next⟩,
    ⟨after .getState (settled s), exec_eq _ _, after_completions .getState _, followLine_getState_named n env s⟩,
    fun hrst => ⟨_, runCommands_eq _ _, followLine_nextGlobal_named_of_unseeded n env ?unseeded⟩⟩
  case next => exact followLine_next_named n env s (after_completions .next _)
  case unseeded => rw [settled_of_reset hrst, seeded_resetTransition]

/-- A line without a name that reads no `status` only issues its commands (R103). -/
theorem followLine_unnamed {l : Line} {env : HostEnv} {s t : State} {cs : List Cmd} (hbinds : lineBinds l = none)
    (hwaits : lineWaits l = false) (hassemble : assembleLine env (seeded s) l = some cs)
    (hissue : issueAll cs s = .next t) : followLine l env s = some (.next (env, t)) := by
  have hwait : waitIf (lineWaits l) s = .next s := by rw [hwaits]; rfl
  rw [followLine_eq hwait hassemble, hbinds, issueLine_unnamed hissue]

/-- NEXT.GLOBAL without a name leaves its commands pending in the settled state. -/
theorem followLine_nextGlobal_unnamed (env : HostEnv) (s : State) : followLine (.nextGlobal none) env s =
    some (.next (env, { settled s with accepted := nextGlobalCommands (seeded (settled s)) })) := by
  have hissue := issueAll_ready (nextGlobalCommands (seeded (settled s))) (settled_rst s)
  rw [settled_accepted, List.nil_append] at hissue
  rw [followLine_nextGlobal, issueLine_unnamed hissue]

/-- Settles O54: an engine that is ready accepts the line's commands, one that is not serves the reset first; NEXT.GLOBAL
issues its own in the settled state. -/
theorem unnamedLineIssuesItsCommands : Obligations.UnnamedLineIssuesItsCommands := by
  refine fun env s => ⟨fun l cs hbinds hwaits hassemble => ⟨fun hrst => ?ready, fun hrst hcs => ?nothing,
    fun hrst hcs => ?reset⟩, fun u hsettle => ?nextGlobal⟩
  case ready => exact followLine_unnamed hbinds hwaits hassemble (issueAll_ready cs hrst)
  case nothing =>
    subst hcs
    exact followLine_unnamed hbinds hwaits hassemble rfl
  case reset =>
    exact ⟨resetTransition s, step_reset hrst, resetTransition_rst s,
      followLine_unnamed hbinds hwaits hassemble (issueAll_reset hcs hrst)⟩
  case nextGlobal =>
    obtain rfl : settled s = u := by simpa [settle_eq] using hsettle
    have hfollow := followLine_nextGlobal_unnamed env s
    exact ⟨fun h => by rw [hfollow, h]; rfl, fun h => by rw [hfollow, h]; rfl⟩

end Sys2Proof.Proofs
end
